-- ==== Sys2Proof/Word.lean ====
section
/-! DEFINITION. The two word types of the machine (R1, R4 of 00_scope.md). -/

namespace Sys2Proof

/-- A byte, an unsigned integer 0 to 255; `+` and `-` wrap modulo 256 (R4, R5). -/
abbrev Byte := BitVec 8

/-- An address, an unsigned integer 0 to 65535; `+` and `-` wrap modulo 65536 (R4, R5, R30). -/
abbrev Addr := BitVec 16

end Sys2Proof
end

