-- ==== Sys2Proof/Syntax.lean ====
section
/-! DEFINITION. The instructions, one constructor per row of spec/opcode_table.json (R56, 30_encoding.md). -/

namespace Sys2Proof

/-- The eleven instructions of R56 and the row of the invalid opcodes (R57). An `imm` is the immediate
byte (R55), an `addr` the absolute 16-bit address of an ext operand (R54). -/
inductive Instr where
  /-- opcode 0x00 (R70) -/
  | nop
  /-- opcode 0x01 (R71) -/
  | halt
  /-- opcode 0x02 (R80) -/
  | pushimm (imm : Byte)
  /-- opcode 0x03 (R81) -/
  | pushext (addr : Addr)
  /-- opcode 0x04 (R82) -/
  | popinh
  /-- opcode 0x05 (R83) -/
  | popext (addr : Addr)
  /-- opcode 0x06 (R90) -/
  | jnz (addr : Addr)
  /-- opcode 0x07 (R91) -/
  | jnn (addr : Addr)
  /-- opcode 0x08 (R97) -/
  | add
  /-- opcode 0x09 (R98) -/
  | sub
  /-- opcode 0x0A (R99) -/
  | nor
  /-- any opcode byte 0x0B to 0xFF, kept as fetched (R57, R72) -/
  | invalid (op : Byte)
deriving DecidableEq, Repr

/-- The three formats of R50 to R53. -/
inductive Format where
  /-- F0, the opcode byte alone (R51) -/
  | f0
  /-- F1, one immediate byte (R52) -/
  | f1
  /-- F2, a two-byte absolute address (R53) -/
  | f2
deriving DecidableEq, Repr

end Sys2Proof
end

