-- ==== Sys2Proof/WellFormed.lean ====
section
/-! DEFINITION. Which terms of `Instr` stand for an instruction of the machine. -/

namespace Sys2Proof

/-- The invalid row holds exactly the opcode bytes 11 to 255 (R57); every operand byte of the other
eleven is legal (R58), so they are always well-formed. -/
def Instr.wf : Instr → Bool
  | .nop => true
  | .halt => true
  | .pushimm _ => true
  | .pushext _ => true
  | .popinh => true
  | .popext _ => true
  | .jnz _ => true
  | .jnn _ => true
  | .add => true
  | .sub => true
  | .nor => true
  | .invalid op => decide (11 ≤ op.toNat)

end Sys2Proof
end

