-- ==== Sys2Proof/Decode.lean ====
section
/-! DEFINITION. The decoder and the encoder of R50 to R59 (30_encoding.md). -/

namespace Sys2Proof

/-- The ext operand `hi*256 + lo`: the first byte is bits 15 to 8, the second bits 7 to 0 (R32, R54). -/
def extAddr (hi lo : Byte) : Addr := BitVec.ofNat 16 (hi.toNat * 256 + lo.toNat)

/-- Bits 15 to 8 of an address, the byte `hi` of format F2 (R53). -/
def addrHi (a : Addr) : Byte := BitVec.ofNat 8 (a.toNat / 256)

/-- Bits 7 to 0 of an address, the byte `lo` of format F2 (R53). -/
def addrLo (a : Addr) : Byte := BitVec.ofNat 8 (a.toNat % 256)

/-- The opcode byte alone decides the format (R50, R56, R59). -/
def formatOf (op : Byte) : Format :=
  match op with
  | 0x02 => .f1
  | 0x03 => .f2
  | 0x05 => .f2
  | 0x06 => .f2
  | 0x07 => .f2
  | _ => .f0

/-- The length in bytes of an instruction of a format (R51 to R53). -/
def formatLength : Format → Nat
  | .f0 => 1
  | .f1 => 2
  | .f2 => 3

/-- The opcode map of R56 on an opcode byte and the two bytes that follow it in the instruction
stream; a format that is shorter does not look at the bytes it does not have. -/
def decodeWindow (op b1 b2 : Byte) : Instr :=
  match op with
  | 0x00 => .nop
  | 0x01 => .halt
  | 0x02 => .pushimm b1
  | 0x03 => .pushext (extAddr b1 b2)
  | 0x04 => .popinh
  | 0x05 => .popext (extAddr b1 b2)
  | 0x06 => .jnz (extAddr b1 b2)
  | 0x07 => .jnn (extAddr b1 b2)
  | 0x08 => .add
  | 0x09 => .sub
  | 0x0A => .nor
  | _ => .invalid op

/-- Why a list of bytes holds no whole instruction. Neither reason arises in a step: the instruction
stream in memory has no end (R30, R33). DESIGN CHOICE, safe; log entry 11. -/
inductive DecodeReject where
  /-- the list is empty -/
  | noOpcode
  /-- the list ends before the operand bytes of this opcode -/
  | missingOperand (op : Byte)
deriving DecidableEq, Repr

/-- The instruction at the head of a list of bytes, and the bytes after it (R50, R56, R59). -/
def decode : List Byte → Except DecodeReject (Instr × List Byte)
  | [] => .error .noOpcode
  | op :: rest =>
    match formatOf op, rest with
    | .f0, rest => .ok (decodeWindow op 0 0, rest)
    | .f1, b1 :: rest => .ok (decodeWindow op b1 0, rest)
    | .f1, [] => .error (.missingOperand op)
    | .f2, b1 :: b2 :: rest => .ok (decodeWindow op b1 b2, rest)
    | .f2, _ => .error (.missingOperand op)

/-- The opcode byte of an instruction (R56, R57). -/
def Instr.opcode : Instr → Byte
  | .nop => 0x00
  | .halt => 0x01
  | .pushimm _ => 0x02
  | .pushext _ => 0x03
  | .popinh => 0x04
  | .popext _ => 0x05
  | .jnz _ => 0x06
  | .jnn _ => 0x07
  | .add => 0x08
  | .sub => 0x09
  | .nor => 0x0A
  | .invalid op => op

/-- The operand bytes of an instruction in stream order (R51 to R53). -/
def Instr.operandBytes : Instr → List Byte
  | .nop => []
  | .halt => []
  | .pushimm imm => [imm]
  | .pushext addr => [addrHi addr, addrLo addr]
  | .popinh => []
  | .popext addr => [addrHi addr, addrLo addr]
  | .jnz addr => [addrHi addr, addrLo addr]
  | .jnn addr => [addrHi addr, addrLo addr]
  | .add => []
  | .sub => []
  | .nor => []
  | .invalid _ => []

/-- The bytes of an instruction, opcode first (R50). -/
def encode (i : Instr) : List Byte := i.opcode :: i.operandBytes

/-- The length of an instruction in bytes (R50, R56). -/
def Instr.length : Instr → Nat
  | .nop => 1
  | .halt => 1
  | .pushimm _ => 2
  | .pushext _ => 3
  | .popinh => 1
  | .popext _ => 3
  | .jnz _ => 3
  | .jnn _ => 3
  | .add => 1
  | .sub => 1
  | .nor => 1
  | .invalid _ => 1

/-- The three bytes of a table word: bit 0 is the least significant bit of the first byte, a later
byte's bits count on from it, and every bit from `nbits` up is 0. -/
def tableBytes (nbits w : Nat) : List Byte :=
  let v := w % 2 ^ nbits
  [BitVec.ofNat 8 v, BitVec.ofNat 8 (v / 2 ^ 8), BitVec.ofNat 8 (v / 2 ^ 16)]

/-- The instruction the decoder reads from a word numbered as spec/opcode_table.json numbers it. -/
def decodeTableWord (nbits w : Nat) : Option Instr :=
  match decode (tableBytes nbits w) with
  | .ok (i, _) => some i
  | .error _ => none

end Sys2Proof
end

