-- ==== Sys2Proof/Config.lean ====
section
/-! DEFINITION. The fixed addresses and values of R2 and the parameters of R3 (00_scope.md). -/

namespace Sys2Proof.Config

/-- `PC_RESET` (R2). -/
def pcReset : Addr := 0x0000
/-- `SP_RESET` (R2). -/
def spReset : Addr := 0xFFFA
/-- `PSW_ADDR` (R2, R18). -/
def pswAddr : Addr := 0xFFFB
/-- `PORT_A` (R2, R19). -/
def portA : Addr := 0xFFFC
/-- `PORT_B` (R2, R19). -/
def portB : Addr := 0xFFFD
/-- `PORT_C` (R2, R19). -/
def portC : Addr := 0xFFFE
/-- `PORT_D` (R2, R19). -/
def portD : Addr := 0xFFFF

/-- `PSW_Z`, the zero encoding (R2, R18). -/
def pswZ : Byte := 0x80
/-- `PSW_N`, the negative encoding (R2, R18). -/
def pswN : Byte := 0x40
/-- `PSW_NONE`, neither (R2, R18). -/
def pswNone : Byte := 0x00

/-- `MEM_SIZE` in bytes (R1); also the most bytes an image may have (R3, R136). -/
def memSize : Nat := 65536

/-- `PSW_STORE_LAST`: add and sub store the PSW after the result. The spec decides it true
(R3, R101, decision D5 of 92_eei_decisions.md). UNVERIFIED, unsafe; log entry 1. -/
def pswStoreLast : Bool := true

/-- `CYCLES_PER_STEP`: the clock cycles one instruction takes, positive and possibly depending on the
opcode. The spec leaves it open and no rule reads it (R3, R144, D3), so it has no body and nothing in
the model reads it. DESIGN CHOICE, safe; log entry 3. -/
opaque cyclesPerStep : Byte → ℕ+

end Sys2Proof.Config
end

