-- ==== Sys2Proof/Machine/State.lean ====
section
/-! DEFINITION. The state of the machine (R10, 10_state.md), the canonical form of its memory, the two
reason types of an outcome, and the state after construction and after reset (R24). -/

namespace Sys2Proof.Machine

/-- The 65536 bytes of R17 as the list of the cells that differ from `Memory.unlisted`, addresses
strictly rising. DESIGN CHOICE, safe; log entry 10. -/
abbrev Memory := List Host.Cell

/-- What an unlisted address reads as: the byte construction puts in every cell (R24, R130). -/
def Memory.unlisted : Byte := 0x00

/-- The canonical form from address `lo` up: addresses rising from `lo`, below 65536, no cell equal to
what an unlisted address reads as. -/
def Memory.wfFrom : Nat → Memory → Bool
  | _, [] => true
  | lo, (a, v) :: rest =>
    decide (lo ≤ a) && decide (a < Config.memSize) && decide (v ≠ Memory.unlisted) && Memory.wfFrom (a + 1) rest

/-- The canonical form of memory. -/
def Memory.wf (m : Memory) : Bool := Memory.wfFrom 0 m

/-- Reasons for which a step stops with the host's outcome `fault`. There is none: "the core never
throws/raises", every defined instruction completes in every state and an invalid opcode is recorded
in the latch `State.fault` of the next state (R111, R110). So nobody raises one, and that is exact,
neither safe nor unsafe. DEDUCED; log entry 8. -/
inductive Fault where
deriving DecidableEq, Repr

/-- Reasons for which an operation has no meaning in the model. -/
inductive Refusal where
  /-- An instruction that has no meaning yet; raised by an arm of `exec` only, and no arm raises it now.
  Safe: the model stops where the hardware goes on. -/
  | notModelled (mnemonic : String)
  /-- Raised by the host operation LoadImage for an image of more than 65536 bytes, which the spec puts
  outside the block (R136, U8 of 93_implementation_defined.md); no instruction raises it. DESIGN CHOICE,
  safe; log entry 6. -/
  | imageTooLong
deriving DecidableEq, Repr

/-- The whole state of the machine (R10). The PSW (R18) and the ports (R19) are cells of `mem`. -/
structure State where
  /-- program counter (R11) -/
  pc : Addr
  /-- stack pointer: the next free slot (R12) -/
  sp : Addr
  /-- fault latch (R13) -/
  fault : Bool
  /-- halt latch (R14) -/
  halt : Bool
  /-- memory (R17) -/
  mem : Memory
deriving DecidableEq, Repr

/-- The machine after construction, that is power-on: everything zero (R24, R130, D6). -/
def State.construction : State :=
  { pc := 0x0000, sp := 0x0000, fault := false, halt := false, mem := [] }

/-- The machine right after reset (R24, R131), its memory as construction left it. DEDUCED, unsafe; log entry 2. -/
def State.reset : State :=
  { pc := Config.pcReset, sp := Config.spReset, fault := false, halt := false, mem := [] }

end Sys2Proof.Machine
end

