-- ==== Sys2Proof/Machine/Ops.lean ====
section
/-! DEFINITION. The named operations over memory, registers and latches: the access primitives of R31,
the stack of R12, the guard of R65, taking the one exception (R110, R115) and the way out of it (R131). -/

namespace Sys2Proof.Machine

/-- The byte listed for a cell, or what an unlisted cell reads as. -/
def Memory.get : Memory → Nat → Byte
  | [], _ => Memory.unlisted
  | (k, v) :: rest, a => if k = a then v else Memory.get rest a

/-- Take every entry of a cell out of the list. -/
def Memory.dropCell : Memory → Nat → Memory
  | [], _ => []
  | (k, v) :: rest, a => if k = a then Memory.dropCell rest a else (k, v) :: Memory.dropCell rest a

/-- Put an entry before the first one with a higher address. -/
def Memory.insertCell : Memory → Nat → Byte → Memory
  | [], a, v => [(a, v)]
  | (k, w) :: rest, a, v => if a < k then (a, v) :: (k, w) :: rest else (k, w) :: Memory.insertCell rest a v

/-- `MemRead(addr, 1)` (R31). -/
def Memory.read (m : Memory) (a : Addr) : Byte := m.get a.toNat

/-- `MemWrite(addr, 1, v)` (R31); writing the byte an unlisted cell reads as removes the entry. -/
def Memory.write (m : Memory) (a : Addr) (v : Byte) : Memory :=
  if v = Memory.unlisted then m.dropCell a.toNat else (m.dropCell a.toNat).insertCell a.toNat v

/-- `MemWrite` of consecutive bytes from an address up, modulo 65536, in their order. -/
def Memory.writeBytes : Memory → Addr → List Byte → Memory
  | m, _, [] => m
  | m, a, v :: rest => Memory.writeBytes (m.write a v) (a + 1) rest

/-- `pc <- a`. -/
def State.setPc (s : State) (a : Addr) : State := { s with pc := a }
/-- `sp <- a`. -/
def State.setSp (s : State) (a : Addr) : State := { s with sp := a }
/-- `fault <- b`. -/
def State.setFault (s : State) (b : Bool) : State := { s with fault := b }
/-- `halt <- b`. -/
def State.setHalt (s : State) (b : Bool) : State := { s with halt := b }
/-- The same machine with another memory. -/
def State.setMem (s : State) (m : Memory) : State := { s with mem := m }

/-- The byte at an address (R31). -/
def State.read (s : State) (a : Addr) : Byte := s.mem.read a

/-- Store a byte at an address and change nothing else (R31). -/
def State.write (s : State) (a : Addr) (v : Byte) : State := s.setMem (s.mem.write a v)

/-- The fetches of an instruction of `n` bytes leave `pc` advanced by `n`, before its effect (R67). -/
def State.advance (s : State) (n : Nat) : State := s.setPc (s.pc + BitVec.ofNat 16 n)

/-- A push: write at the free slot, then decrement (R12, conflict C1). -/
def State.push (s : State) (v : Byte) : State := (s.write s.sp v).setSp (s.sp - 1)

/-- The increment of a pop (R12). -/
def State.pop (s : State) : State := s.setSp (s.sp + 1)

/-- The guard of Step: the core is Halted or Faulted (R16, R65). -/
def State.stopped (s : State) : Bool := s.fault || s.halt

/-- Taking the exception InvalidOpcode: `fault <- 1` and nothing else. No register is saved, no mode
changes and control goes nowhere (R110, R115). -/
def State.raiseInvalidOpcode (s : State) : State := s.setFault true

/-- The host's Reset, the only way out of Halted and Faulted; it touches no memory (R131, R132, R117). -/
def State.hostReset (s : State) : State :=
  (((s.setPc Config.pcReset).setSp Config.spReset).setFault false).setHalt false

end Sys2Proof.Machine
end

