-- ==== Sys2Proof/Machine/Operands.lean ====
section
/-! DEFINITION. The operand forms, all of them (R84): the bytes of the instruction stream (R54, R55) and
the bytes at the top of the stack (R7, R12); and fetching an instruction (R65 to R67). -/

namespace Sys2Proof.Machine

/-- The byte `k` places after the opcode, modulo 65536 (R30, R33, R54). -/
def State.streamByte (s : State) (k : Nat) : Byte := s.read (s.pc + BitVec.ofNat 16 k)

/-- The instruction whose opcode byte is at `pc` (R65, R66). Reads have no side effect (R37), so
looking at the two bytes after a shorter instruction cannot be observed. DESIGN CHOICE,
safe; log entry 4. -/
def State.fetchInstr (s : State) : Instr := decodeWindow (s.streamByte 0) (s.streamByte 1) (s.streamByte 2)

/-- The address of the top of stack (R7, R12). -/
def State.topAddr (s : State) : Addr := s.sp + 1

/-- The address of the element under the top (R7, R12). -/
def State.secondAddr (s : State) : Addr := s.sp + 2

/-- The top of stack (R7). -/
def State.top (s : State) : Byte := s.read s.topAddr

/-- The element under the top (R7). -/
def State.second (s : State) : Byte := s.read s.secondAddr

end Sys2Proof.Machine
end

