-- ==== Sys2Proof/Machine/Flags.lean ====
section
/-! DEFINITION. The condition flags: the PSW cell (R18), its update (R96), the two tests of the jumps
(R90, R91) and the two stores of add and sub (R101). -/

namespace Sys2Proof.Machine

/-- The PSW encoding of an 8-bit result taken as unsigned: a result of exactly 128 sets neither (R96). -/
def pswOf (r : Byte) : Byte :=
  if r.toNat > 128 then Config.pswN else if r = 0 then Config.pswZ else Config.pswNone

/-- `UpdatePSW(r)` on a memory: the whole byte at 0xFFFB is written (R96). -/
def Memory.updatePsw (m : Memory) (r : Byte) : Memory := m.write Config.pswAddr (pswOf r)

/-- The PSW cell (R18). -/
def State.psw (s : State) : Byte := s.read Config.pswAddr

/-- `jnz` is taken: the whole PSW byte differs from the zero encoding (R90). -/
def jnzTaken (psw : Byte) : Bool := psw != Config.pswZ

/-- `jnn` is taken: the whole PSW byte differs from the negative encoding (R91). -/
def jnnTaken (psw : Byte) : Bool := psw != Config.pswN

/-- The two stores of add and sub, in the order the parameter `PSW_STORE_LAST` gives (R101, R3). -/
def Memory.storeResult (m : Memory) (pswLast : Bool) (a : Addr) (r : Byte) : Memory :=
  if pswLast then (m.write a r).updatePsw r else (m.updatePsw r).write a r

/-- What add and sub do with their result: store it over second, update the PSW, pop (R97, R98, R101). -/
def State.storeFlagged (s : State) (r : Byte) : State :=
  (s.setMem (s.mem.storeResult Config.pswStoreLast s.secondAddr r)).pop

/-- What nor does with its result: store it over second and pop, no flag update (R99). -/
def State.storeUnflagged (s : State) (r : Byte) : State := (s.write s.secondAddr r).pop

end Sys2Proof.Machine
end

