-- ==== Sys2Proof/Machine/Alu.lean ====
section
/-! DEFINITION. Arithmetic and logic (43_alu.md). Both operands are read before any store (R101). -/

namespace Sys2Proof.Machine

/-- `add`: second plus top (R97). -/
def execAdd (s : State) : Host.Outcome State Fault Refusal :=
  .next ((s.advance 1).storeFlagged (s.second + s.top))

/-- `sub`: top minus second, in that order (R98). -/
def execSub (s : State) : Host.Outcome State Fault Refusal :=
  .next ((s.advance 1).storeFlagged (s.top - s.second))

/-- `nor`: the complement of second or top; the PSW is left alone (R99). -/
def execNor (s : State) : Host.Outcome State Fault Refusal :=
  .next ((s.advance 1).storeUnflagged (~~~(s.second ||| s.top)))

end Sys2Proof.Machine
end

