-- ==== Sys2Proof/Machine/Jump.lean ====
section
/-! DEFINITION. The conditional jumps (42_jumps.md). -/

namespace Sys2Proof.Machine

/-- A jump to an absolute address if its condition holds, else on past its three bytes (R92). -/
def State.jumpIf (s : State) (taken : Bool) (addr : Addr) : State :=
  if taken then s.setPc addr else s.advance 3

/-- `jnz addr16` (R90). -/
def execJnz (addr : Addr) (s : State) : Host.Outcome State Fault Refusal :=
  .next (s.jumpIf (jnzTaken s.psw) addr)

/-- `jnn addr16` (R91). -/
def execJnn (addr : Addr) (s : State) : Host.Outcome State Fault Refusal :=
  .next (s.jumpIf (jnnTaken s.psw) addr)

end Sys2Proof.Machine
end

