-- ==== Sys2Proof/Machine/Stack.lean ====
section
/-! DEFINITION. The stack and memory transfer instructions (41_stack.md). -/

namespace Sys2Proof.Machine

/-- `pushimm imm8` (R80). -/
def execPushimm (imm : Byte) (s : State) : Host.Outcome State Fault Refusal :=
  .next ((s.advance 2).push imm)

/-- `pushext addr16`: the read comes before the write (R81). -/
def execPushext (addr : Addr) (s : State) : Host.Outcome State Fault Refusal :=
  .next ((s.advance 3).push (s.read addr))

/-- `popinh` (R82). -/
def execPopinh (s : State) : Host.Outcome State Fault Refusal := .next (s.advance 1).pop

/-- `popext addr16`: the read comes before the write (R83). -/
def execPopext (addr : Addr) (s : State) : Host.Outcome State Fault Refusal :=
  .next ((s.advance 3).write addr s.top).pop

end Sys2Proof.Machine
end

