-- ==== Sys2Proof/Machine/System.lean ====
section
/-! DEFINITION. nop, halt and the invalid opcode (40_cycle_and_system.md). A meaning is given the state
with `pc` at the opcode byte and answers the state after the whole step, so it begins with the
advance of its fetches (R67; DESIGN CHOICE, safe, log entry 4). -/

namespace Sys2Proof.Machine

/-- `nop` (R70). -/
def execNop (s : State) : Host.Outcome State Fault Refusal := .next (s.advance 1)

/-- `halt` (R71). -/
def execHalt (s : State) : Host.Outcome State Fault Refusal := .next ((s.advance 1).setHalt true)

/-- An invalid opcode, whichever of the 245 it is (R57, R72). An ill-formed term gets the same meaning;
DESIGN CHOICE, safe, log entry 11. -/
def execInvalid (_op : Byte) (s : State) : Host.Outcome State Fault Refusal :=
  .next (s.advance 1).raiseInvalidOpcode

end Sys2Proof.Machine
end

