-- ==== Sys2Proof/Machine/Dispatch.lean ====
section
/-! DEFINITION. The dispatch of R66, one arm per constructor of Instr. -/

namespace Sys2Proof.Machine

/-- The meaning of each instruction. -/
def exec (i : Instr) (s : State) : Host.Outcome State Fault Refusal :=
  match i with
  | .nop => Sys2Proof.Machine.execNop s
  | .halt => Sys2Proof.Machine.execHalt s
  | .pushimm imm => Sys2Proof.Machine.execPushimm imm s
  | .pushext addr => Sys2Proof.Machine.execPushext addr s
  | .popinh => Sys2Proof.Machine.execPopinh s
  | .popext addr => Sys2Proof.Machine.execPopext addr s
  | .jnz addr => Sys2Proof.Machine.execJnz addr s
  | .jnn addr => Sys2Proof.Machine.execJnn addr s
  | .add => Sys2Proof.Machine.execAdd s
  | .sub => Sys2Proof.Machine.execSub s
  | .nor => Sys2Proof.Machine.execNor s
  | .invalid op => Sys2Proof.Machine.execInvalid op s

end Sys2Proof.Machine
end

