-- ==== Sys2Proof/Machine/Step.lean ====
section
/-! DEFINITION. One step of the core (R65, 40_cycle_and_system.md), and the host's placing of an
instruction where the next step fetches. -/

namespace Sys2Proof.Machine

/-- `Step`: nothing at all if a latch is set, else one instruction, as one transition (R65, R68).
The guard is the rule's own also where both latches are set, which no run reaches; log entry 12. -/
def step (s : State) : Host.Outcome State Fault Refusal :=
  if s.stopped then .next s else exec s.fetchInstr s

/-- The state with the three bytes of a table word at `pc`. The latches are cleared, since a stopped core
fetches nothing (R65); in a running state that changes nothing. DESIGN CHOICE,
safe; log entry 5. -/
def State.withFetchWord (s : State) (nbits w : Nat) : State :=
  ((s.setMem (s.mem.writeBytes s.pc (tableBytes nbits w))).setFault false).setHalt false

end Sys2Proof.Machine
end

