-- ==== Sys2Proof/Machine/HostOps.lean ====
section
/-! DEFINITION. The host's operations on an idle core (R22, R145): Run, the ports, GetPSW, LoadImage and the
status outputs. Step is `step`, Reset is `State.hostReset`, construction is `State.construction`. A host
move falls between two steps (R44, R134), which is why each is a function of a whole state. DEDUCED, unsafe;
log entries 9 and 13. -/

namespace Sys2Proof.Machine

/-- `n` Steps one after another (R65, R120). -/
def steps : Nat → State → Host.Outcome State Fault Refusal
  | 0, s => .next s
  | n + 1, s =>
    match step s with
    | .next t => steps n t
    | .fault r => .fault r
    | .refused r => .refused r

/-- `Run` for at most `fuel` steps: the state in which it ended, or nothing if it has not ended by then.
The latches are tested first (R69, D13). Fuel is no part of the machine (D11).
DESIGN CHOICE, safe; log entry 9. -/
def runFor : Nat → State → Option State
  | 0, s => if s.stopped then some s else none
  | fuel + 1, s =>
    if s.stopped then some s
    else
      match step s with
      | .next t => runFor fuel t
      | .fault _ => none
      | .refused _ => none

/-- `Run` started in `s` ends, in `t` (R69, R138). A run for which there is no such `t` is a hang (R139). -/
def RunEnds (s t : State) : Prop := ∃ fuel, runFor fuel s = some t

/-- The four ports (R19). -/
inductive Port where
  /-- port A, conventionally output -/
  | a
  /-- port B, conventionally input -/
  | b
  /-- port C, conventionally output -/
  | c
  /-- port D, conventionally input -/
  | d
deriving DecidableEq, Repr

/-- The cell of a port (R2, R19, R119). -/
def portAddr : Port → Addr
  | .a => Config.portA
  | .b => Config.portB
  | .c => Config.portC
  | .d => Config.portD

/-- `PortRead(p)` (R22). -/
def State.portRead (s : State) (p : Port) : Byte := s.read (portAddr p)

/-- `PortWrite(p, v)`, any byte on any port (R22, R19). -/
def State.portWrite (s : State) (p : Port) (v : Byte) : State := s.write (portAddr p) v

/-- `GetPSW` (R22). -/
def State.getPsw (s : State) : Byte := s.psw

/-- `LoadImage(bytes)`: consecutive bytes from address 0x0000, nothing else (R136). More than 65536 bytes
is outside the block and is refused (U8). DESIGN CHOICE, safe; log entry 6. -/
def State.loadImage (s : State) (image : List Byte) : Host.Outcome State Fault Refusal :=
  if image.length ≤ Config.memSize then .next (s.setMem (s.mem.writeBytes 0x0000 image))
  else .refused .imageTooLong

/-- The status outputs (R22): the program counter, the stack pointer and the two latches. -/
structure Status where
  /-- `pc` -/
  pc : Addr
  /-- `sp` -/
  sp : Addr
  /-- `fault` -/
  fault : Bool
  /-- `halt` -/
  halt : Bool
deriving DecidableEq, Repr

/-- What the host sees of an idle core besides the ports and the PSW (R22). -/
def State.status (s : State) : Status := ⟨s.pc, s.sp, s.fault, s.halt⟩

/-- The rows of the table of R145. -/
inductive HostOp where
  /-- power-on (R130) -/
  | construct
  /-- Reset (R131) -/
  | reset
  /-- Step (R65) -/
  | step
  /-- Run (R69) -/
  | run
  /-- PortRead -/
  | portRead (p : Port)
  /-- PortWrite -/
  | portWrite (p : Port) (v : Byte)
  /-- GetPSW -/
  | getPsw
  /-- LoadImage (R136) -/
  | loadImage (image : List Byte)
  /-- reading the status outputs -/
  | readStatus
deriving DecidableEq, Repr

/-- The operation can take an idle core from `s` to `t` (R145). Only Run may have no such `t` (R139), or
LoadImage of an image the block does not accept. -/
def HostMove (op : HostOp) (s t : State) : Prop :=
  match op with
  | .construct => t = State.construction
  | .reset => t = s.hostReset
  | .step => Sys2Proof.Machine.step s = .next t
  | .run => RunEnds s t
  | .portRead _ => t = s
  | .portWrite p v => t = s.portWrite p v
  | .getPsw => t = s
  | .loadImage image => s.loadImage image = .next t
  | .readStatus => t = s

end Sys2Proof.Machine
end

