-- ==== Sys2Proof/Machine/Access.lean ====
section
/-! DEFINITION. The memory accesses of each instruction, in the order of the table of R34 (20_memory.md). -/

namespace Sys2Proof.Machine

/-- One access of the core to the memory array (R23, R34). -/
inductive Access where
  /-- `IF`, an instruction-stream read -/
  | fetch (addr : Addr)
  /-- `R`, a data read -/
  | read (addr : Addr)
  /-- `W`, a data write -/
  | write (addr : Addr)
deriving DecidableEq, Repr

/-- The instruction-stream reads: `n` bytes from `pc` up (R34, R50, R67). -/
def State.fetches (s : State) (n : Nat) : List Access :=
  (List.range n).map fun k => .fetch (s.pc + BitVec.ofNat 16 k)

/-- The data accesses of an instruction, in order (R34). The order of the reads is decision
D4, UNVERIFIED, safe; log entry 7. -/
def dataAccesses (i : Instr) (s : State) : List Access :=
  match i with
  | .nop => []
  | .halt => []
  | .pushimm _ => [.write s.sp]
  | .pushext addr => [.read addr, .write s.sp]
  | .popinh => []
  | .popext addr => [.read s.topAddr, .write addr]
  | .jnz _ => [.read Config.pswAddr]
  | .jnn _ => [.read Config.pswAddr]
  | .add => [.read s.secondAddr, .read s.topAddr, .write s.secondAddr, .write Config.pswAddr]
  | .sub => [.read s.topAddr, .read s.secondAddr, .write s.secondAddr, .write Config.pswAddr]
  | .nor => [.read s.secondAddr, .read s.topAddr, .write s.secondAddr]
  | .invalid _ => []

/-- The table of R34, its last row (a stopped core makes no access) included. -/
def State.stepAccesses (s : State) : List Access :=
  if s.stopped then [] else s.fetches s.fetchInstr.length ++ dataAccesses s.fetchInstr s

/-- The address of an access that reads. -/
def Access.readAddr : Access → Option Addr
  | .fetch a => some a
  | .read a => some a
  | .write _ => none

/-- The address of an access that writes. -/
def Access.writeAddr : Access → Option Addr
  | .fetch _ => none
  | .read _ => none
  | .write a => some a

/-- The addresses an instruction stores to. -/
def storeAddrs (i : Instr) (s : State) : List Addr := (dataAccesses i s).filterMap Access.writeAddr

/-- The addresses a step stores to. -/
def State.stepStores (s : State) : List Addr := s.stepAccesses.filterMap Access.writeAddr

/-- The addresses a step reads, fetches included. -/
def State.stepReads (s : State) : List Addr := s.stepAccesses.filterMap Access.readAddr

end Sys2Proof.Machine
end

