-- ==== Sys2Proof/Machine/Pseudocode.lean ====
section
/-! DEFINITION. The spec's pseudocode of a step, statement by statement (R6, R65 to R67, R70 to R72, R80 to
R83, R90, R91, R96 to R99), over a machine that also records its memory accesses (R34). It is a second
description of the machine, kept beside `step`, against which `step` can be proved; it decodes nothing
ahead, each arm fetches its own operand bytes (R66). -/

namespace Sys2Proof.Machine

/-- A machine in the middle of a step, with the accesses made so far, oldest first. -/
structure Bus where
  /-- the machine as every earlier statement has left it (R6) -/
  st : State
  /-- the accesses made so far -/
  log : List Access
deriving DecidableEq, Repr

/-- `MemRead(a, 1)` (R6). -/
def Bus.memRead (b : Bus) (a : Addr) : Byte × Bus := (b.st.read a, { b with log := b.log ++ [.read a] })

/-- `MemWrite(a, 1, v)` (R6). -/
def Bus.memWrite (b : Bus) (a : Addr) (v : Byte) : Bus := ⟨b.st.write a v, b.log ++ [.write a]⟩

/-- `Fetch8()` (R67). -/
def Bus.fetch8 (b : Bus) : Byte × Bus :=
  (b.st.read b.st.pc, ⟨b.st.setPc (b.st.pc + 1), b.log ++ [.fetch b.st.pc]⟩)

/-- `FetchExt()`: `hi*256 + lo` (R54). -/
def Bus.fetchExt (b : Bus) : Addr × Bus :=
  let (hi, b) := b.fetch8
  let (lo, b) := b.fetch8
  (BitVec.ofNat 16 (hi.toNat * 256 + lo.toNat), b)

/-- `pc <- a`. -/
def Bus.setPc (b : Bus) (a : Addr) : Bus := { b with st := b.st.setPc a }
/-- `sp <- a`. -/
def Bus.setSp (b : Bus) (a : Addr) : Bus := { b with st := b.st.setSp a }

/-- `UpdatePSW(r)` (R96). -/
def Bus.updatePsw (b : Bus) (r : Byte) : Bus :=
  if r.toNat > 128 then b.memWrite 0xFFFB 0x40
  else if r.toNat = 0 then b.memWrite 0xFFFB 0x80
  else b.memWrite 0xFFFB 0x00

/-- After the opcode fetch, `pushimm` (R80). -/
def Bus.pushimm (b : Bus) : Bus :=
  let (imm, b) := b.fetch8
  let b := b.memWrite b.st.sp imm
  b.setSp (b.st.sp - 1)

/-- After the opcode fetch, `pushext` (R81). -/
def Bus.pushext (b : Bus) : Bus :=
  let (a, b) := b.fetchExt
  let (v, b) := b.memRead a
  let b := b.memWrite b.st.sp v
  b.setSp (b.st.sp - 1)

/-- After the opcode fetch, `popext` (R83). -/
def Bus.popext (b : Bus) : Bus :=
  let (a, b) := b.fetchExt
  let (v, b) := b.memRead (b.st.sp + 1)
  let b := b.memWrite a v
  b.setSp (b.st.sp + 1)

/-- After the opcode fetch, `jnz` (R90). -/
def Bus.jnz (b : Bus) : Bus :=
  let (a, b) := b.fetchExt
  let (psw, b) := b.memRead 0xFFFB
  if psw ≠ 0x80 then b.setPc a else b

/-- After the opcode fetch, `jnn` (R91). -/
def Bus.jnn (b : Bus) : Bus :=
  let (a, b) := b.fetchExt
  let (psw, b) := b.memRead 0xFFFB
  if psw ≠ 0x40 then b.setPc a else b

/-- After the opcode fetch, `add`: `r <- (a + b) mod 256` (R97). -/
def Bus.add (b : Bus) : Bus :=
  let (second, b) := b.memRead (b.st.sp + 2)
  let (top, b) := b.memRead (b.st.sp + 1)
  let r := BitVec.ofNat 8 ((second.toNat + top.toNat) % 256)
  let b := b.memWrite (b.st.sp + 2) r
  let b := b.updatePsw r
  b.setSp (b.st.sp + 1)

/-- After the opcode fetch, `sub`: `r <- (b - a) mod 256`, never negative (R98, R5). -/
def Bus.sub (b : Bus) : Bus :=
  let (top, b) := b.memRead (b.st.sp + 1)
  let (second, b) := b.memRead (b.st.sp + 2)
  let r := BitVec.ofInt 8 (((top.toNat : Int) - (second.toNat : Int)) % 256)
  let b := b.memWrite (b.st.sp + 2) r
  let b := b.updatePsw r
  b.setSp (b.st.sp + 1)

/-- After the opcode fetch, `nor`: `255 - (a | b)` (R99). -/
def Bus.nor (b : Bus) : Bus :=
  let (second, b) := b.memRead (b.st.sp + 2)
  let (top, b) := b.memRead (b.st.sp + 1)
  let r := BitVec.ofNat 8 (255 - (second.toNat ||| top.toNat))
  let b := b.memWrite (b.st.sp + 2) r
  b.setSp (b.st.sp + 1)

/-- `Dispatch(opcode)` (R66). -/
def Bus.dispatch (b : Bus) (opcode : Byte) : Bus :=
  match opcode with
  | 0x00 => b
  | 0x01 => { b with st := b.st.setHalt true }
  | 0x02 => b.pushimm
  | 0x03 => b.pushext
  | 0x04 => b.setSp (b.st.sp + 1)
  | 0x05 => b.popext
  | 0x06 => b.jnz
  | 0x07 => b.jnn
  | 0x08 => b.add
  | 0x09 => b.sub
  | 0x0A => b.nor
  | _ => { b with st := b.st.setFault true }

/-- `Step()` (R65): the state after it and the accesses it made. -/
def pseudoStep (s : State) : Bus :=
  if s.fault = true ∨ s.halt = true then ⟨s, []⟩
  else
    let (opcode, b) := (Bus.mk s []).fetch8
    b.dispatch opcode

end Sys2Proof.Machine
end

