-- ==== Sys2Proof/Safety.lean ====
section
/-! DEFINITION. The terms claims are stated in: the three execution states (R16), the invariant of the
machine, and the legal PSW encodings (R18). -/

namespace Sys2Proof.Machine

/-- Running: neither latch is set (R16). -/
abbrev State.Running (s : State) : Prop := s.fault = false ∧ s.halt = false

/-- Halted: the halt latch is set (R16). -/
abbrev State.Halted (s : State) : Prop := s.halt = true

/-- Faulted: the fault latch is set (R16). -/
abbrev State.Faulted (s : State) : Prop := s.fault = true

/-- What every reachable state satisfies: memory is in its canonical form, and the two latches are not
both set (R16). -/
abbrev State.Inv (s : State) : Prop := s.mem.wf = true ∧ ¬(s.Halted ∧ s.Faulted)

/-- The byte is one of the three encodings the hardware itself writes (R18, R96). -/
abbrev PswEncoding (v : Byte) : Prop := v = Config.pswZ ∨ v = Config.pswN ∨ v = Config.pswNone

/-- The bytes `bs` stand in memory from address `a` up, modulo 65536 (R50, R33). -/
def State.HoldsBytes (s : State) (a : Addr) (bs : List Byte) : Prop :=
  ∀ k : Nat, (h : k < bs.length) → s.read (a + BitVec.ofNat 16 k) = bs[k]

/-- A safe run of `n` steps, as claims use it: every state on the way is Running. -/
def State.RunningFor (s : State) (n : Nat) : Prop :=
  ∀ k < n, ∀ u, steps k s = .next u → State.Running u

end Sys2Proof.Machine
end

