-- ==== Sys2Proof/Certificates/Slice0/Obligations.lean ====
section
/-! DEFINITION. The statements for the provers, each with the rule or rules of spec/ it formalises. -/

open Sys2Proof Sys2Proof.Machine

/-! ## Encoding -/

/-- Every well-formed instruction, at every operand value, decodes from its encoding, and the bytes after
it are left alone (R50 to R56). -/
def Obligations.DecodeEncodeRoundTrip : Prop :=
  ∀ (i : Instr) (rest : List Byte), i.wf = true → decode (encode i ++ rest) = .ok (i, rest)

/-- The other direction: what decodes to an instruction is that instruction's encoding, so each sequence
of bytes has one meaning and nothing decodes to an ill-formed instruction (R56, R57, R58). -/
def Obligations.DecodedBytesAreTheEncoding : Prop :=
  ∀ (bs : List Byte) (i : Instr) (rest : List Byte),
    decode bs = .ok (i, rest) → i.wf = true ∧ bs = encode i ++ rest

/-- Words written out from R54, R55, R56 and the examples of R80 to R91 decode to what they stand for. -/
def Obligations.SpecWordsDecode : Prop :=
  decode [0x00] = .ok (.nop, []) ∧ decode [0x01] = .ok (.halt, [])
    ∧ decode [0x02, 0xFF] = .ok (.pushimm 0xFF, []) ∧ decode [0x03, 0x12, 0x34] = .ok (.pushext 0x1234, [])
    ∧ decode [0x05, 0xFF, 0xFC] = .ok (.popext 0xFFFC, []) ∧ decode [0x06, 0x12, 0x34] = .ok (.jnz 0x1234, [])
    ∧ decode [0x07, 0x00, 0x10] = .ok (.jnn 0x0010, []) ∧ decode [0x09] = .ok (.sub, [])
    ∧ decode [0x0B] = .ok (.invalid 0x0B, [])

/-- The invalid opcodes are the 245 byte values from 11 up; one is one byte long, consumes no operand byte,
sets the fault latch, and all behave identically (R57). -/
def Obligations.InvalidOpcodesExactly : Prop :=
  (∀ (op : Byte) (rest : List Byte), 11 ≤ op.toNat ↔ decode (op :: rest) = .ok (.invalid op, rest))
    ∧ ((List.range 256).filter fun n =>
        decide (decodeWindow (BitVec.ofNat 8 n) 0 0 = .invalid (BitVec.ofNat 8 n))).length = 245
    ∧ (∀ s : State, s.Running → 11 ≤ (s.read s.pc).toNat → ∃ t, step s = .next t ∧ t.fault = true)
    ∧ ∀ (op op' : Byte) (s : State), exec (.invalid op) s = exec (.invalid op') s

/-- The opcode byte alone gives the length: 0x02 two bytes, 0x03, 0x05, 0x06 and 0x07 three, every other
value one, and the decoder consumes exactly that many (R50, R59). The last clause, that a list which ends
too soon is refused by name, is no rule of the spec: it is the model's DESIGN CHOICE, log entry 11. -/
def Obligations.OpcodeGivesLength : Prop :=
  ∀ (op : Byte) (rest : List Byte) (n : Nat),
    n = (if op = 0x02 then 2 else if op = 0x03 ∨ op = 0x05 ∨ op = 0x06 ∨ op = 0x07 then 3 else 1) →
    (n ≤ rest.length + 1 →
        ∃ i, decode (op :: rest) = .ok (i, (op :: rest).drop n) ∧ i.length = n ∧ i.opcode = op)
      ∧ (rest.length + 1 < n → decode (op :: rest) = .error (.missingOperand op))

/-! ## The step -/

/-- When the bytes at `pc` decode to an instruction, a step of a running core is exec of it at that state and
nothing around it: exec itself moves `pc` past the instruction's bytes (R65, R66; log entry 4). -/
def Obligations.StepRunsDecodedInstruction : Prop :=
  ∀ (s : State) (i : Instr) (rest : List Byte), s.Running →
    decode [s.read s.pc, s.read (s.pc + 1), s.read (s.pc + 2)] = .ok (i, rest) → step s = exec i s

/-- When the encoding of a well-formed instruction stands at `pc`, wherever that is and across the top of
the address space too, a step runs it (R33, R50, R65, R66). -/
def Obligations.StepRunsStoredEncoding : Prop :=
  ∀ (s : State) (i : Instr), s.Running → i.wf = true → s.HoldsBytes s.pc (encode i) → step s = exec i s

/-- Step executes one instruction if neither latch is set; once one is set, no number of steps changes
anything (R65). -/
def Obligations.StepGuard : Prop :=
  (∀ s : State, s.Running →
      step s = exec (decodeWindow (s.read s.pc) (s.read (s.pc + 1)) (s.read (s.pc + 2))) s)
    ∧ ∀ s : State, s.fault = true ∨ s.halt = true → ∀ n, steps n s = .next s

/-- No exception but InvalidOpcode exists: every instruction completes in every state, none of the eleven
defined ones sets the fault latch, and a step always answers a next state (R111). -/
def Obligations.StepAlwaysAnswersNext : Prop :=
  (∀ (i : Instr) (s : State), ∃ t, exec i s = .next t ∧ ((∀ op, i ≠ .invalid op) → t.fault = s.fault))
    ∧ ∀ s : State, ∃ t, step s = .next t

/-- The table of `pc` after one step, by the opcode byte (R11, whose table the spec marks as derived). -/
def Obligations.PcAfterStep : Prop :=
  ∀ (s : State) (op hi lo : Byte), op = s.read s.pc → hi = s.read (s.pc + 1) → lo = s.read (s.pc + 2) →
    ∃ t, step s = .next t ∧
      t.pc =
        if s.stopped then s.pc
        else if op = 0x02 then s.pc + 2
        else if op = 0x03 ∨ op = 0x05 then s.pc + 3
        else if op = 0x06 then
          if s.read 0xFFFB = 0x80 then s.pc + 3 else BitVec.ofNat 16 (hi.toNat * 256 + lo.toNat)
        else if op = 0x07 then
          if s.read 0xFFFB = 0x40 then s.pc + 3 else BitVec.ofNat 16 (hi.toNat * 256 + lo.toNat)
        else s.pc + 1

/-- The writers of `sp`: a push takes one off, popinh, popext and the three ALU instructions add one, and
nothing else in a step moves it (R12). -/
def Obligations.SpAfterStep : Prop :=
  ∀ (s : State) (op : Byte), op = s.read s.pc →
    ∃ t, step s = .next t ∧
      t.sp =
        if s.stopped then s.sp
        else if op = 0x02 ∨ op = 0x03 then s.sp - 1
        else if op = 0x04 ∨ op = 0x05 ∨ op = 0x08 ∨ op = 0x09 ∨ op = 0x0A then s.sp + 1
        else s.sp

/-- The model's step is the spec's pseudocode, executed statement by statement on every state: guard, opcode
fetch, dispatch on the opcode byte, operand fetches inside the arms (R65 to R67, R70 to R72, R80 to
R83, R90, R91, R96 to R99; the order of the two ALU stores is decision D5, log entry 1). -/
def Obligations.StepEqualsPseudocode : Prop :=
  ∀ s : State, step s = .next (pseudoStep s).st

/-- The pseudocode makes exactly the accesses of the table of R34, in its order (the order of reads is
decision D4, that of the ALU stores D5). -/
def Obligations.AccessesFollowTheTable : Prop :=
  ∀ s : State, (pseudoStep s).log = s.stepAccesses

/-- A step depends on nothing but the registers, the latches and the bytes the table of R34 says it reads:
two states that agree on those take steps that agree on the registers, the latches and every byte stored. -/
def Obligations.StepReadsOnlyItsFootprint : Prop :=
  ∀ s₁ s₂ t₁ t₂ : State, s₁.status = s₂.status → (∀ a ∈ s₁.stepReads, s₁.read a = s₂.read a) →
    step s₁ = .next t₁ → step s₂ = .next t₂ →
    t₁.status = t₂.status ∧ s₁.stepStores = s₂.stepStores ∧ ∀ a ∈ s₁.stepStores, t₁.read a = t₂.read a

/-- A running step sets at most one latch, and the opcode byte alone decides which (R114, R16). -/
def Obligations.OpcodeDecidesTheEvent : Prop :=
  ∀ s t : State, s.Running → step s = .next t →
    (t.halt = true ↔ s.read s.pc = 0x01) ∧ (t.fault = true ↔ 11 ≤ (s.read s.pc).toNat)
      ∧ ¬(t.halt = true ∧ t.fault = true)

/-! ## Invariants -/

/-- Every step keeps the invariant: memory in canonical form, the two latches not both set (R16, R17). -/
def Obligations.StepKeepsInvariant : Prop :=
  ∀ s t : State, s.Inv → step s = .next t → t.Inv

/-- The state after reset meets the invariant, as does the state after construction, and it is what Reset
makes of construction (R24, R131; that its memory is construction's is the model's, log entry 2). -/
def Obligations.ResetMeetsInvariant : Prop :=
  State.reset.Inv ∧ State.construction.Inv ∧ State.reset = State.construction.hostReset

/-- Every operation of the host, Run included, keeps the invariant (R22, R145). -/
def Obligations.HostMovesKeepInvariant : Prop :=
  ∀ (op : HostOp) (s t : State), s.Inv → HostMove op s t → t.Inv

/-- After an add or sub the PSW is one of the three encodings in every state, and a step keeps it one unless
it stores to the cell by another instruction (R18, conflict C4; with the result at the PSW cell this rests
on decision D5, log entry 1). -/
def Obligations.PswEncodingKept : Prop :=
  ∀ s t : State, s.Running → step s = .next t →
    (s.fetchInstr = .add ∨ s.fetchInstr = .sub → PswEncoding (t.read 0xFFFB))
      ∧ (0xFFFB ∉ s.stepStores → PswEncoding (s.read 0xFFFB) → PswEncoding (t.read 0xFFFB))

/-! ## Results of the instructions -/

/-- nop: `pc` advances by one and nothing else changes (R70). -/
def Obligations.NopResult : Prop :=
  ∀ s : State, ∃ t, exec .nop s = .next t
    ∧ t.pc = s.pc + 1 ∧ t.sp = s.sp ∧ t.fault = s.fault ∧ t.halt = s.halt ∧ (∀ a, t.read a = s.read a)
    ∧ (s.Running → s.read s.pc = 0x00 → step s = .next t)

/-- halt: `pc` advances by one and the halt latch is set; every later step does nothing (R71). -/
def Obligations.HaltResult : Prop :=
  ∀ s : State, ∃ t, exec .halt s = .next t
    ∧ t.pc = s.pc + 1 ∧ t.sp = s.sp ∧ t.fault = s.fault ∧ t.halt = true ∧ (∀ a, t.read a = s.read a)
    ∧ (s.Running → s.read s.pc = 0x01 →
        step s = .next t ∧ t.fault = false ∧ ∀ n, steps n t = .next t)

/-- An invalid opcode: `pc` is one past it, the fault latch is set, nothing else changes; every later step
does nothing (R72). -/
def Obligations.InvalidOpcodeResult : Prop :=
  ∀ (op : Byte) (s : State), ∃ t, exec (.invalid op) s = .next t
    ∧ t.pc = s.pc + 1 ∧ t.sp = s.sp ∧ t.fault = true ∧ t.halt = s.halt ∧ (∀ a, t.read a = s.read a)
    ∧ (s.Running → s.read s.pc = op → 0x0B ≤ op.toNat →
        step s = .next t ∧ t.halt = false ∧ ∀ n, steps n t = .next t)

/-- pushimm: the immediate lands at the old `sp`, `sp` goes down by one, `pc` up by two (R80). -/
def Obligations.PushimmResult : Prop :=
  ∀ (imm : Byte) (s : State), ∃ t, exec (.pushimm imm) s = .next t
    ∧ t.pc = s.pc + 2 ∧ t.sp = s.sp - 1 ∧ t.fault = s.fault ∧ t.halt = s.halt
    ∧ (∀ a, t.read a = if a = s.sp then imm else s.read a)
    ∧ (s.Running → s.read s.pc = 0x02 → s.read (s.pc + 1) = imm → step s = .next t)

/-- pushext: the old byte at the absolute address lands at the old `sp` (R81, with the operand of R54). -/
def Obligations.PushextResult : Prop :=
  ∀ (A : Addr) (s : State), ∃ t, exec (.pushext A) s = .next t
    ∧ t.pc = s.pc + 3 ∧ t.sp = s.sp - 1 ∧ t.fault = s.fault ∧ t.halt = s.halt
    ∧ (∀ a, t.read a = if a = s.sp then s.read A else s.read a)
    ∧ (s.Running → s.read s.pc = 0x03 →
        A.toNat = (s.read (s.pc + 1)).toNat * 256 + (s.read (s.pc + 2)).toNat → step s = .next t)

/-- popinh: `sp` goes up by one, memory is unchanged (R82). -/
def Obligations.PopinhResult : Prop :=
  ∀ s : State, ∃ t, exec .popinh s = .next t
    ∧ t.pc = s.pc + 1 ∧ t.sp = s.sp + 1 ∧ t.fault = s.fault ∧ t.halt = s.halt ∧ (∀ a, t.read a = s.read a)
    ∧ (s.Running → s.read s.pc = 0x04 → step s = .next t)

/-- popext: the old top lands at the absolute address, the PSW cell and the ports like any other (R83). -/
def Obligations.PopextResult : Prop :=
  ∀ (A : Addr) (s : State), ∃ t, exec (.popext A) s = .next t
    ∧ t.pc = s.pc + 3 ∧ t.sp = s.sp + 1 ∧ t.fault = s.fault ∧ t.halt = s.halt
    ∧ (∀ a, t.read a = if a = A then s.read (s.sp + 1) else s.read a)
    ∧ (s.Running → s.read s.pc = 0x05 →
        A.toNat = (s.read (s.pc + 1)).toNat * 256 + (s.read (s.pc + 2)).toNat → step s = .next t)

/-- jnz: taken for every PSW byte but exactly 0x80; nothing but `pc` changes (R90). -/
def Obligations.JnzResult : Prop :=
  ∀ (A : Addr) (s : State), ∃ t, exec (.jnz A) s = .next t
    ∧ (s.read 0xFFFB ≠ 0x80 → t.pc = A) ∧ (s.read 0xFFFB = 0x80 → t.pc = s.pc + 3)
    ∧ t.sp = s.sp ∧ t.fault = s.fault ∧ t.halt = s.halt ∧ (∀ a, t.read a = s.read a)
    ∧ (s.Running → s.read s.pc = 0x06 →
        A.toNat = (s.read (s.pc + 1)).toNat * 256 + (s.read (s.pc + 2)).toNat → step s = .next t)

/-- jnn: taken for every PSW byte but exactly 0x40; nothing but `pc` changes (R91). -/
def Obligations.JnnResult : Prop :=
  ∀ (A : Addr) (s : State), ∃ t, exec (.jnn A) s = .next t
    ∧ (s.read 0xFFFB ≠ 0x40 → t.pc = A) ∧ (s.read 0xFFFB = 0x40 → t.pc = s.pc + 3)
    ∧ t.sp = s.sp ∧ t.fault = s.fault ∧ t.halt = s.halt ∧ (∀ a, t.read a = s.read a)
    ∧ (s.Running → s.read s.pc = 0x07 →
        A.toNat = (s.read (s.pc + 1)).toNat * 256 + (s.read (s.pc + 2)).toNat → step s = .next t)

/-- add: second plus top, modulo 256, over second; the PSW is the result's encoding; one slot popped (R97).
With `sp` = 0xFFF9 what the PSW cell holds is `AluResultAtThePswCell`. -/
def Obligations.AddResult : Prop :=
  ∀ (s : State) (r : Byte), r = s.read (s.sp + 2) + s.read (s.sp + 1) → ∃ t, exec .add s = .next t
    ∧ t.pc = s.pc + 1 ∧ t.sp = s.sp + 1 ∧ t.fault = s.fault ∧ t.halt = s.halt
    ∧ (∀ a, a ≠ 0xFFFB → t.read a = if a = s.sp + 2 then r else s.read a)
    ∧ (s.sp ≠ 0xFFF9 → t.read 0xFFFB = if r.toNat > 128 then 0x40 else if r.toNat = 0 then 0x80 else 0x00)
    ∧ (s.Running → s.read s.pc = 0x08 → step s = .next t)

/-- sub: top minus second, in that order, modulo 256, over second; the PSW is the result's encoding; one
slot popped (R98). With `sp` = 0xFFF9 what the PSW cell holds is `AluResultAtThePswCell`. -/
def Obligations.SubResult : Prop :=
  ∀ (s : State) (r : Byte), r = s.read (s.sp + 1) - s.read (s.sp + 2) → ∃ t, exec .sub s = .next t
    ∧ t.pc = s.pc + 1 ∧ t.sp = s.sp + 1 ∧ t.fault = s.fault ∧ t.halt = s.halt
    ∧ (∀ a, a ≠ 0xFFFB → t.read a = if a = s.sp + 2 then r else s.read a)
    ∧ (s.sp ≠ 0xFFF9 → t.read 0xFFFB = if r.toNat > 128 then 0x40 else if r.toNat = 0 then 0x80 else 0x00)
    ∧ (s.Running → s.read s.pc = 0x09 → step s = .next t)

/-- nor: the complement of second or top over second, one slot popped; the PSW cell changes only if it is
itself the cell of second (R99). -/
def Obligations.NorResult : Prop :=
  ∀ s : State, ∃ t, exec .nor s = .next t
    ∧ t.pc = s.pc + 1 ∧ t.sp = s.sp + 1 ∧ t.fault = s.fault ∧ t.halt = s.halt
    ∧ (∀ a, t.read a = if a = s.sp + 2 then ~~~(s.read (s.sp + 2) ||| s.read (s.sp + 1)) else s.read a)
    ∧ (s.Running → s.read s.pc = 0x0A → step s = .next t)

/-- add and sub with `sp` = 0xFFF9: second is the PSW cell, its old byte is the operand, and it ends as the
encoding of the result, every other byte unchanged. This is the spec's decision D5 (R101), log entry 1. -/
def Obligations.AluResultAtThePswCell : Prop :=
  ∀ (s t : State) (i : Instr) (r : Byte), s.sp = 0xFFF9 →
    (i = .add ∧ r = s.read 0xFFFB + s.read 0xFFFA ∨ i = .sub ∧ r = s.read 0xFFFA - s.read 0xFFFB) →
    exec i s = .next t →
    (∀ a, t.read a =
        if a = 0xFFFB then (if r.toNat > 128 then 0x40 else if r.toNat = 0 then 0x80 else 0x00) else s.read a)
      ∧ t.sp = 0xFFFA

/-! ## Flags -/

/-- UpdatePSW writes the whole byte at 0xFFFB and nothing else: 0x40 exactly for 129 to 255, 0x80 exactly for
0, 0x00 exactly for 1 to 128; and no instruction but add and sub invokes it: another leaves the cell alone
unless it is the cell it stores its own byte to (R96). -/
def Obligations.UpdatePswWrites : Prop :=
  (∀ (i : Instr) (s t : State), exec i s = .next t → i ≠ .add → i ≠ .sub → 0xFFFB ∉ storeAddrs i s →
      t.read 0xFFFB = s.read 0xFFFB)
    ∧ ∀ (m : Memory) (r : Byte),
    (129 ≤ r.toNat ↔ (m.updatePsw r).read 0xFFFB = 0x40) ∧ (r.toNat = 0 ↔ (m.updatePsw r).read 0xFFFB = 0x80)
      ∧ ((1 ≤ r.toNat ∧ r.toNat ≤ 128) ↔ (m.updatePsw r).read 0xFFFB = 0x00)
      ∧ ∀ b, b ≠ 0xFFFB → (m.updatePsw r).read b = m.read b

/-- The order of the two stores of add and sub does not matter unless the result's cell is the PSW cell: there
the PSW-last order leaves the encoding and the other order the raw result (R101, U10). -/
def Obligations.StoreOrderMattersOnlyAtThePswCell : Prop :=
  ∀ (m : Memory) (a : Addr) (r : Byte), m.wf = true →
    (a ≠ 0xFFFB → m.storeResult true a r = m.storeResult false a r)
      ∧ (a = 0xFFFB → (m.storeResult true a r).read 0xFFFB = pswOf r ∧ (m.storeResult false a r).read 0xFFFB = r)

/-- Only an add, a sub, or a store to 0xFFFB by a push, a popext or a nor can change the PSW cell in a step
(R18, R143). -/
def Obligations.WritersOfThePsw : Prop :=
  ∀ s t : State, s.Running → step s = .next t → t.read 0xFFFB ≠ s.read 0xFFFB →
    s.fetchInstr = .add ∨ s.fetchInstr = .sub
      ∨ ((∃ v, s.fetchInstr = .pushimm v) ∨ ∃ A, s.fetchInstr = .pushext A) ∧ s.sp = 0xFFFB
      ∨ s.fetchInstr = .popext 0xFFFB
      ∨ s.fetchInstr = .nor ∧ s.sp = 0xFFF9

/-- For operands of at most 127, sub compares: the PSW is 0x40, 0x80 or 0x00 as the top is below, equal to
or above the second (R98, which the spec marks as derived; at `sp` = 0xFFF9 it rests on D5, log entry 1). -/
def Obligations.SubComparesSmallOperands : Prop :=
  ∀ s t : State, (s.read (s.sp + 1)).toNat ≤ 127 → (s.read (s.sp + 2)).toNat ≤ 127 → exec .sub s = .next t →
    (t.read 0xFFFB = 0x40 ↔ (s.read (s.sp + 1)).toNat < (s.read (s.sp + 2)).toNat)
      ∧ (t.read 0xFFFB = 0x80 ↔ s.read (s.sp + 1) = s.read (s.sp + 2))
      ∧ (t.read 0xFFFB = 0x00 ↔ (s.read (s.sp + 2)).toNat < (s.read (s.sp + 1)).toNat)

/-- add and sub produce the same bits whether the operands are read as unsigned or as two's complement
(R100). -/
def Obligations.SignedAndUnsignedReadingsAgree : Prop :=
  ∀ (s t : State) (x y : Byte), x = s.read (s.sp + 1) → y = s.read (s.sp + 2) → s.sp ≠ 0xFFF9 →
    (exec .add s = .next t →
        (t.read (s.sp + 2)).toNat = (y.toNat + x.toNat) % 256
          ∧ (t.read (s.sp + 2)).toInt = (y.toInt + x.toInt).bmod 256)
      ∧ (exec .sub s = .next t →
        ((t.read (s.sp + 2)).toNat : Int) = ((x.toNat : Int) - (y.toNat : Int)) % 256
          ∧ (t.read (s.sp + 2)).toInt = (x.toInt - y.toInt).bmod 256)

/-! ## Frames -/

/-- The instructions that store nothing (nop, halt, popinh, jnz, jnn and the invalid opcode): every byte of
memory reads as before, `sp` moves only for popinh, the halt latch only for halt, the fault latch only for
the invalid opcode (R34, R70 to R72, R82, R90, R91). -/
def Obligations.FrameOfNonStoringInstructions : Prop :=
  ∀ (i : Instr) (s t : State),
    (i = .nop ∨ i = .halt ∨ i = .popinh ∨ (∃ A, i = .jnz A) ∨ (∃ A, i = .jnn A) ∨ ∃ op, i = .invalid op) →
    exec i s = .next t →
    (∀ a, t.read a = s.read a) ∧ (i ≠ .popinh → t.sp = s.sp) ∧ (i ≠ .halt → t.halt = s.halt)
      ∧ ((∀ op, i ≠ .invalid op) → t.fault = s.fault)

/-- The instructions that store (pushimm, pushext, popext, add, sub, nor): both latches stay, and every byte
outside the stored ones reads as before: `sp` for a push, the operand for popext, `sp + 2` for nor, `sp + 2`
and 0xFFFB for add and sub (R34, R80, R81, R83, R97 to R99). -/
def Obligations.FrameOfStoringInstructions : Prop :=
  ∀ (i : Instr) (s t : State), exec i s = .next t →
    ((∃ v, i = .pushimm v) ∨ (∃ A, i = .pushext A) →
        t.fault = s.fault ∧ t.halt = s.halt ∧ ∀ a, a ≠ s.sp → t.read a = s.read a)
      ∧ (∀ A, i = .popext A → t.fault = s.fault ∧ t.halt = s.halt ∧ ∀ a, a ≠ A → t.read a = s.read a)
      ∧ (i = .nor → t.fault = s.fault ∧ t.halt = s.halt ∧ ∀ a, a ≠ s.secondAddr → t.read a = s.read a)
      ∧ (i = .add ∨ i = .sub →
        t.fault = s.fault ∧ t.halt = s.halt ∧ ∀ a, a ≠ s.secondAddr → a ≠ 0xFFFB → t.read a = s.read a)

/-- However many steps are taken, a byte that none of them stores to keeps its value; in particular a port
or the PSW never changes spontaneously (R19, R37, R39). -/
def Obligations.CellKeptUntilStored : Prop :=
  ∀ (n : Nat) (s t : State) (a : Addr), steps n s = .next t →
    (∀ k < n, ∀ u : State, steps k s = .next u → a ∉ u.stepStores) → t.read a = s.read a

/-- `pc` and the latches are no data: the stack pointer and the memory an instruction leaves depend on the
stack pointer and the memory alone (R11, R20). -/
def Obligations.PcAndLatchesAreNotData : Prop :=
  ∀ (i : Instr) (s₁ s₂ t₁ t₂ : State), s₁.sp = s₂.sp → s₁.mem = s₂.mem →
    exec i s₁ = .next t₁ → exec i s₂ = .next t₂ → t₁.sp = t₂.sp ∧ t₁.mem = t₂.mem

/-! ## Consequences for programs of any kind -/

/-- A pushed byte is the top, and popping it into an address puts it there and restores `sp`, at every `sp`,
across the wrap too (R12, R80, R83). -/
def Obligations.PushThenPopRestores : Prop :=
  ∀ (v : Byte) (A : Addr) (s t u : State), exec (.pushimm v) s = .next t → exec (.popext A) t = .next u →
    t.read (t.sp + 1) = v ∧ u.read A = v ∧ u.sp = s.sp
      ∧ ∀ a, a ≠ A → a ≠ s.sp → u.read a = s.read a

/-- `jnz T` followed by `jnn T` always jumps to T, whatever the PSW byte (R61, R92, which the spec marks as
derived). -/
def Obligations.JumpPairAlwaysJumps : Prop :=
  ∀ (s : State) (T : Addr), s.Running → s.HoldsBytes s.pc (encode (.jnz T) ++ encode (.jnn T)) →
    ∃ t, step s = .next t
      ∧ (t.pc = T ∧ s.read 0xFFFB ≠ 0x80
          ∨ t.pc = s.pc + 3 ∧ s.read 0xFFFB = 0x80 ∧ ∃ u, step t = .next u ∧ u.pc = T)

/-- `pushimm 0` followed by `nor` complements the top of stack and leaves `sp` where it was (R61, which the
spec marks as derived). -/
def Obligations.NotIdiomComplementsTop : Prop :=
  ∀ s t u : State, exec (.pushimm 0x00) s = .next t → exec .nor t = .next u →
    u.read (u.sp + 1) = ~~~s.read (s.sp + 1) ∧ u.sp = s.sp
      ∧ ∀ a, a ≠ s.sp → a ≠ s.sp + 1 → u.read a = s.read a

/-- A byte that a popext, a push or a nor stores, wherever it lands, is in force for the very next step: that
step runs what the three bytes at the new `pc` read after the store, whichever of them the store has hit, with
nothing in between. And where the store hits the storing instruction's own bytes, its effect is the same
as ever, since it ran with the bytes it had fetched (R42, which the spec marks as derived). -/
def Obligations.StoreIsSeenByTheNextFetch : Prop :=
  ∀ (s : State) (a sp' n : Addr) (v : Byte), s.Running →
    (s.fetchInstr = .popext a ∧ n = 3 ∧ sp' = s.sp + 1 ∧ v = s.read (s.sp + 1)
      ∨ s.fetchInstr = .pushimm v ∧ n = 2 ∧ sp' = s.sp - 1 ∧ a = s.sp
      ∨ (∃ A, s.fetchInstr = .pushext A ∧ v = s.read A) ∧ n = 3 ∧ sp' = s.sp - 1 ∧ a = s.sp
      ∨ s.fetchInstr = .nor ∧ n = 1 ∧ sp' = s.sp + 1 ∧ a = s.sp + 2
          ∧ v = ~~~(s.read (s.sp + 2) ||| s.read (s.sp + 1))) →
    ∃ t, step s = .next t ∧ t.pc = s.pc + n ∧ t.sp = sp' ∧ t.Running
      ∧ (∀ b, t.read b = if b = a then v else s.read b)
      ∧ step t = exec
          (decodeWindow (if s.pc + n = a then v else s.read (s.pc + n))
            (if s.pc + n + 1 = a then v else s.read (s.pc + n + 1))
            (if s.pc + n + 2 = a then v else s.read (s.pc + n + 2))) t

/-- Top and second are at `sp + 1` and `sp + 2` modulo 65536, so the stack wraps at the top of the address
space (R7, R12, R30). -/
def Obligations.StackAddressesWrap : Prop :=
  ∀ s : State,
    s.topAddr.toNat = (s.sp.toNat + 1) % 65536 ∧ s.secondAddr.toNat = (s.sp.toNat + 2) % 65536
      ∧ (s.sp = 0xFFFF → s.top = s.read 0x0000 ∧ s.second = s.read 0x0001)
      ∧ (s.sp = 0xFFFE → s.top = s.read 0xFFFF ∧ s.second = s.read 0x0000)

/-! ## Memory -/

/-- A store at an address is what a read there returns; no other byte, register or latch changes (R31). -/
def Obligations.MemoryAccessLaws : Prop :=
  ∀ (s : State) (a : Addr) (v : Byte),
    (s.write a v).read a = v ∧ (∀ b, b ≠ a → (s.write a v).read b = s.read b)
      ∧ (s.write a v).status = s.status

/-- Memories in canonical form that read alike at all 65536 addresses are equal data (R17). -/
def Obligations.CanonicalMemoryIsDeterminedByReads : Prop :=
  ∀ m₁ m₂ : Memory, m₁.wf = true → m₂.wf = true → (∀ a : Addr, m₁.read a = m₂.read a) → m₁ = m₂

/-- After any list of stores a read returns the most recent store to its address, or the old byte if there
was none (R37, R39). -/
def Obligations.ReadReturnsMostRecentStore : Prop :=
  ∀ (ws : List (Addr × Byte)) (m : Memory) (a : Addr),
    (ws.foldl (fun m w => m.write w.1 w.2) m).read a
      = ((ws.reverse.find? fun w => w.1 == a).map (·.2)).getD (m.read a)

/-! ## Construction, reset and the host -/

/-- The values after construction and after Reset: construction zeroes everything; Reset gives `pc` 0x0000,
`sp` 0xFFFA and clear latches whatever came before, keeps every byte, and twice is once (R24, R131). -/
def Obligations.ConstructionAndReset : Prop :=
  (State.construction.pc = 0x0000 ∧ State.construction.sp = 0x0000 ∧ State.construction.Running
      ∧ ∀ a, State.construction.read a = 0x00)
    ∧ ∀ s : State, s.hostReset.pc = 0x0000 ∧ s.hostReset.sp = 0xFFFA ∧ s.hostReset.fault = false
      ∧ s.hostReset.halt = false ∧ s.hostReset.Running ∧ (∀ a, s.hostReset.read a = s.read a)
      ∧ s.hostReset.hostReset = s.hostReset

/-- On a stopped core Step and Run do nothing at all, and no host operation but Reset and construction
changes a register or a latch; Reset makes it Running with `pc` 0x0000 and `sp` 0xFFFA, memory kept
(R116, R117). -/
def Obligations.OnlyResetRestarts : Prop :=
  ∀ (op : HostOp) (s t : State), s.stopped = true → HostMove op s t →
    (op = .step ∨ op = .run → t = s)
      ∧ (op ≠ .reset → op ≠ .construct → t.status = s.status)
      ∧ (op = .reset → t.Running ∧ t.pc = 0x0000 ∧ t.sp = 0xFFFA ∧ ∀ a, t.read a = s.read a)

/-- The host's memory writes are PortWrite on the four ports and LoadImage, nothing else; construction, Step
and Run apart, no host operation but Reset changes a register or a latch (R22, D15). -/
def Obligations.HostWritesOnlyPortsAndImage : Prop :=
  ∀ (op : HostOp) (s t : State), HostMove op s t → op ≠ .construct → op ≠ .step → op ≠ .run →
    (op ≠ .reset → t.status = s.status)
      ∧ ∀ a, t.read a ≠ s.read a →
        (∃ p v, op = .portWrite p v ∧ a = portAddr p)
          ∨ ∃ image, op = .loadImage image ∧ a.toNat < image.length

/-- LoadImage of at most 65536 bytes puts byte i at address i and changes nothing else; of more it is refused
by name, being outside the block (R136, U8, log entry 6). -/
def Obligations.LoadImageEffect : Prop :=
  ∀ (s : State) (image : List Byte),
    (image.length ≤ 65536 → ∃ t, s.loadImage image = .next t ∧ t.status = s.status
        ∧ (∀ a : Addr, (h : a.toNat < image.length) → t.read a = image[a.toNat])
        ∧ ∀ a : Addr, image.length ≤ a.toNat → t.read a = s.read a)
      ∧ (65536 < image.length → s.loadImage image = .refused .imageTooLong)

/-- The ports are plain cells: the host reads back what it wrote and a program's store, a program's load sees
what the host wrote, and a port write touches neither another port nor the PSW nor a register (R19, R22, R119). -/
def Obligations.PortsArePlainCells : Prop :=
  ∀ (s : State) (p q : Port) (v : Byte),
    (s.portWrite p v).portRead q = (if q = p then v else s.portRead q)
      ∧ (s.portWrite p v).getPsw = s.getPsw ∧ (s.portWrite p v).status = s.status
      ∧ (∃ t, exec (.popext (portAddr p)) s = .next t ∧ t.portRead p = s.read (s.sp + 1))
      ∧ ∃ t, exec (.pushext (portAddr p)) (s.portWrite p v) = .next t ∧ t.read s.sp = v

/-- A Run that ends is exactly that many Steps, each from a Running state, the last of which stops the core;
and a Run need not end (R69). -/
def Obligations.RunIsRepeatedSteps : Prop :=
  (∀ s t : State, RunEnds s t ↔
      ∃ n, steps n s = .next t ∧ t.stopped = true ∧ s.RunningFor n)
    ∧ ∃ s : State, s.Running ∧ ∀ t, ¬RunEnds s t

/-- The end of a Run of a running core: exactly one latch is set, by the last instruction, which is a halt or
an invalid opcode and has changed nothing else; `pc` is one past it (R138, derived in the spec). -/
def Obligations.EndOfRun : Prop :=
  ∀ s t : State, s.Running → RunEnds s t →
    ∃ u : State, u.Running ∧ (∃ n, steps n s = .next u) ∧ t.pc = u.pc + 1 ∧ t.sp = u.sp
      ∧ (∀ a, t.read a = u.read a)
      ∧ (u.read u.pc = 0x01 ∧ t.halt = true ∧ t.fault = false
          ∨ 11 ≤ (u.read u.pc).toNat ∧ t.fault = true ∧ t.halt = false)

/-- A running core whose memory is all zero executes nops for ever: after n steps `pc` has moved by n modulo
65536 and nothing else, so no Run of it ends (R70, R139). -/
def Obligations.ZeroMemoryRunsForEver : Prop :=
  ∀ s : State, s.Running → (∀ a, s.read a = 0x00) →
    (∀ n, steps n s = .next (s.setPc (s.pc + BitVec.ofNat 16 n))) ∧ ∀ t, ¬RunEnds s t
end

