-- ==== Sys2Proof/Laws/Decode.lean ====
section
/-! SUPPORT. The small lemmas of the decoder: the ext operand and its two bytes, and the opcode byte's cases. -/

namespace Sys2Proof

/-- The ext operand never wraps: two bytes fit 16 bits (R54). -/
theorem extAddr_toNat (hi lo : Byte) : (extAddr hi lo).toNat = hi.toNat * 256 + lo.toNat := by
  have hhi : hi.toNat < 256 := hi.isLt
  have hlo : lo.toNat < 256 := lo.isLt
  simp only [extAddr, BitVec.toNat_ofNat]
  omega

theorem addrHi_extAddr (hi lo : Byte) : addrHi (extAddr hi lo) = hi := by
  have hhi : hi.toNat < 256 := hi.isLt
  have hlo : lo.toNat < 256 := lo.isLt
  apply BitVec.eq_of_toNat_eq
  simp only [addrHi, extAddr_toNat, BitVec.toNat_ofNat]
  omega

theorem addrLo_extAddr (hi lo : Byte) : addrLo (extAddr hi lo) = lo := by
  have hlo : lo.toNat < 256 := lo.isLt
  apply BitVec.eq_of_toNat_eq
  simp only [addrLo, extAddr_toNat, BitVec.toNat_ofNat]
  omega

theorem extAddr_addrHi_addrLo (a : Addr) : extAddr (addrHi a) (addrLo a) = a := by
  have ha : a.toNat < 65536 := a.isLt
  apply BitVec.eq_of_toNat_eq
  simp only [extAddr_toNat, addrHi, addrLo, BitVec.toNat_ofNat]
  omega

/-- An address given as `hi*256 + lo` is the ext operand of the two bytes (R54). -/
theorem extAddr_of_toNat {a : Addr} {hi lo : Byte} (h : a.toNat = hi.toNat * 256 + lo.toNat) :
    extAddr hi lo = a :=
  BitVec.eq_of_toNat_eq (by rw [extAddr_toNat, h])

/-! The opcode map of R56, row by row. -/

theorem decodeWindow_nop (b1 b2 : Byte) : decodeWindow 0x00 b1 b2 = .nop := rfl
theorem decodeWindow_halt (b1 b2 : Byte) : decodeWindow 0x01 b1 b2 = .halt := rfl
theorem decodeWindow_pushimm (b1 b2 : Byte) : decodeWindow 0x02 b1 b2 = .pushimm b1 := rfl
theorem decodeWindow_pushext (b1 b2 : Byte) : decodeWindow 0x03 b1 b2 = .pushext (extAddr b1 b2) := rfl
theorem decodeWindow_popinh (b1 b2 : Byte) : decodeWindow 0x04 b1 b2 = .popinh := rfl
theorem decodeWindow_popext (b1 b2 : Byte) : decodeWindow 0x05 b1 b2 = .popext (extAddr b1 b2) := rfl
theorem decodeWindow_jnz (b1 b2 : Byte) : decodeWindow 0x06 b1 b2 = .jnz (extAddr b1 b2) := rfl
theorem decodeWindow_jnn (b1 b2 : Byte) : decodeWindow 0x07 b1 b2 = .jnn (extAddr b1 b2) := rfl
theorem decodeWindow_add (b1 b2 : Byte) : decodeWindow 0x08 b1 b2 = .add := rfl
theorem decodeWindow_sub (b1 b2 : Byte) : decodeWindow 0x09 b1 b2 = .sub := rfl
theorem decodeWindow_nor (b1 b2 : Byte) : decodeWindow 0x0A b1 b2 = .nor := rfl

/-- An opcode byte is one of the eleven defined ones or 11 and up (R56, R57). -/
theorem opcode_cases (op : Byte) :
    (op = 0x00 ∨ op = 0x01 ∨ op = 0x02 ∨ op = 0x03 ∨ op = 0x04 ∨ op = 0x05 ∨ op = 0x06 ∨ op = 0x07 ∨ op = 0x08
      ∨ op = 0x09 ∨ op = 0x0A) ∨ 11 ≤ op.toNat := by
  revert op; decide

theorem decodeWindow_invalid {op : Byte} (h : 11 ≤ op.toNat) (b1 b2 : Byte) :
    decodeWindow op b1 b2 = .invalid op := by
  unfold decodeWindow
  split <;> first | rfl | exact absurd h (by decide)

theorem formatOf_invalid {op : Byte} (h : 11 ≤ op.toNat) : formatOf op = .f0 := by
  unfold formatOf
  split <;> first | rfl | exact absurd h (by decide)

end Sys2Proof
end

