-- ==== Sys2Proof/Laws/State.lean ====
section
/-! SUPPORT. One lemma per field per update of State, so that no proof unfolds a record update. -/

namespace Sys2Proof.Machine

@[simp] theorem State.setPc_pc (s : State) (a : Addr) : (s.setPc a).pc = a := rfl
@[simp] theorem State.setPc_sp (s : State) (a : Addr) : (s.setPc a).sp = s.sp := rfl
@[simp] theorem State.setPc_fault (s : State) (a : Addr) : (s.setPc a).fault = s.fault := rfl
@[simp] theorem State.setPc_halt (s : State) (a : Addr) : (s.setPc a).halt = s.halt := rfl
@[simp] theorem State.setPc_mem (s : State) (a : Addr) : (s.setPc a).mem = s.mem := rfl
@[simp] theorem State.setPc_read (s : State) (a : Addr) (x : Addr) : (s.setPc a).read x = s.read x := rfl

@[simp] theorem State.setSp_pc (s : State) (a : Addr) : (s.setSp a).pc = s.pc := rfl
@[simp] theorem State.setSp_sp (s : State) (a : Addr) : (s.setSp a).sp = a := rfl
@[simp] theorem State.setSp_fault (s : State) (a : Addr) : (s.setSp a).fault = s.fault := rfl
@[simp] theorem State.setSp_halt (s : State) (a : Addr) : (s.setSp a).halt = s.halt := rfl
@[simp] theorem State.setSp_mem (s : State) (a : Addr) : (s.setSp a).mem = s.mem := rfl
@[simp] theorem State.setSp_read (s : State) (a : Addr) (x : Addr) : (s.setSp a).read x = s.read x := rfl

@[simp] theorem State.setFault_pc (s : State) (b : Bool) : (s.setFault b).pc = s.pc := rfl
@[simp] theorem State.setFault_sp (s : State) (b : Bool) : (s.setFault b).sp = s.sp := rfl
@[simp] theorem State.setFault_fault (s : State) (b : Bool) : (s.setFault b).fault = b := rfl
@[simp] theorem State.setFault_halt (s : State) (b : Bool) : (s.setFault b).halt = s.halt := rfl
@[simp] theorem State.setFault_mem (s : State) (b : Bool) : (s.setFault b).mem = s.mem := rfl
@[simp] theorem State.setFault_read (s : State) (b : Bool) (x : Addr) : (s.setFault b).read x = s.read x := rfl

@[simp] theorem State.setHalt_pc (s : State) (b : Bool) : (s.setHalt b).pc = s.pc := rfl
@[simp] theorem State.setHalt_sp (s : State) (b : Bool) : (s.setHalt b).sp = s.sp := rfl
@[simp] theorem State.setHalt_fault (s : State) (b : Bool) : (s.setHalt b).fault = s.fault := rfl
@[simp] theorem State.setHalt_halt (s : State) (b : Bool) : (s.setHalt b).halt = b := rfl
@[simp] theorem State.setHalt_mem (s : State) (b : Bool) : (s.setHalt b).mem = s.mem := rfl
@[simp] theorem State.setHalt_read (s : State) (b : Bool) (x : Addr) : (s.setHalt b).read x = s.read x := rfl

@[simp] theorem State.setMem_pc (s : State) (m : Memory) : (s.setMem m).pc = s.pc := rfl
@[simp] theorem State.setMem_sp (s : State) (m : Memory) : (s.setMem m).sp = s.sp := rfl
@[simp] theorem State.setMem_fault (s : State) (m : Memory) : (s.setMem m).fault = s.fault := rfl
@[simp] theorem State.setMem_halt (s : State) (m : Memory) : (s.setMem m).halt = s.halt := rfl
@[simp] theorem State.setMem_mem (s : State) (m : Memory) : (s.setMem m).mem = m := rfl
@[simp] theorem State.setMem_read (s : State) (m : Memory) (x : Addr) : (s.setMem m).read x = m.read x := rfl

/-- Two states with equal fields are equal. -/
theorem State.eq_of_fields {s t : State} (hpc : s.pc = t.pc) (hsp : s.sp = t.sp) (hfault : s.fault = t.fault)
    (hhalt : s.halt = t.halt) (hmem : s.mem = t.mem) : s = t := by
  cases s; cases t; simp_all

@[simp] theorem State.advance_pc (s : State) (n : Nat) : (s.advance n).pc = s.pc + BitVec.ofNat 16 n := rfl
@[simp] theorem State.advance_sp (s : State) (n : Nat) : (s.advance n).sp = s.sp := rfl
@[simp] theorem State.advance_fault (s : State) (n : Nat) : (s.advance n).fault = s.fault := rfl
@[simp] theorem State.advance_halt (s : State) (n : Nat) : (s.advance n).halt = s.halt := rfl
@[simp] theorem State.advance_mem (s : State) (n : Nat) : (s.advance n).mem = s.mem := rfl
@[simp] theorem State.advance_read (s : State) (n : Nat) (x : Addr) : (s.advance n).read x = s.read x := rfl

@[simp] theorem State.write_pc (s : State) (a : Addr) (v : Byte) : (s.write a v).pc = s.pc := rfl
@[simp] theorem State.write_sp (s : State) (a : Addr) (v : Byte) : (s.write a v).sp = s.sp := rfl
@[simp] theorem State.write_fault (s : State) (a : Addr) (v : Byte) : (s.write a v).fault = s.fault := rfl
@[simp] theorem State.write_halt (s : State) (a : Addr) (v : Byte) : (s.write a v).halt = s.halt := rfl
@[simp] theorem State.write_mem (s : State) (a : Addr) (v : Byte) : (s.write a v).mem = s.mem.write a v := rfl

@[simp] theorem State.push_pc (s : State) (v : Byte) : (s.push v).pc = s.pc := rfl
@[simp] theorem State.push_sp (s : State) (v : Byte) : (s.push v).sp = s.sp - 1 := rfl
@[simp] theorem State.push_fault (s : State) (v : Byte) : (s.push v).fault = s.fault := rfl
@[simp] theorem State.push_halt (s : State) (v : Byte) : (s.push v).halt = s.halt := rfl
@[simp] theorem State.push_mem (s : State) (v : Byte) : (s.push v).mem = s.mem.write s.sp v := rfl

@[simp] theorem State.pop_pc (s : State) : s.pop.pc = s.pc := rfl
@[simp] theorem State.pop_sp (s : State) : s.pop.sp = s.sp + 1 := rfl
@[simp] theorem State.pop_fault (s : State) : s.pop.fault = s.fault := rfl
@[simp] theorem State.pop_halt (s : State) : s.pop.halt = s.halt := rfl
@[simp] theorem State.pop_mem (s : State) : s.pop.mem = s.mem := rfl
@[simp] theorem State.pop_read (s : State) (x : Addr) : s.pop.read x = s.read x := rfl

@[simp] theorem State.raiseInvalidOpcode_pc (s : State) : s.raiseInvalidOpcode.pc = s.pc := rfl
@[simp] theorem State.raiseInvalidOpcode_sp (s : State) : s.raiseInvalidOpcode.sp = s.sp := rfl
@[simp] theorem State.raiseInvalidOpcode_fault (s : State) : s.raiseInvalidOpcode.fault = true := rfl
@[simp] theorem State.raiseInvalidOpcode_halt (s : State) : s.raiseInvalidOpcode.halt = s.halt := rfl
@[simp] theorem State.raiseInvalidOpcode_mem (s : State) : s.raiseInvalidOpcode.mem = s.mem := rfl

@[simp] theorem State.storeFlagged_pc (s : State) (r : Byte) : (s.storeFlagged r).pc = s.pc := rfl
@[simp] theorem State.storeFlagged_sp (s : State) (r : Byte) : (s.storeFlagged r).sp = s.sp + 1 := rfl
@[simp] theorem State.storeFlagged_fault (s : State) (r : Byte) : (s.storeFlagged r).fault = s.fault := rfl
@[simp] theorem State.storeFlagged_halt (s : State) (r : Byte) : (s.storeFlagged r).halt = s.halt := rfl
@[simp] theorem State.storeFlagged_mem (s : State) (r : Byte) : (s.storeFlagged r).mem = s.mem.storeResult Config.pswStoreLast s.secondAddr r := rfl

@[simp] theorem State.storeUnflagged_pc (s : State) (r : Byte) : (s.storeUnflagged r).pc = s.pc := rfl
@[simp] theorem State.storeUnflagged_sp (s : State) (r : Byte) : (s.storeUnflagged r).sp = s.sp + 1 := rfl
@[simp] theorem State.storeUnflagged_fault (s : State) (r : Byte) : (s.storeUnflagged r).fault = s.fault := rfl
@[simp] theorem State.storeUnflagged_halt (s : State) (r : Byte) : (s.storeUnflagged r).halt = s.halt := rfl
@[simp] theorem State.storeUnflagged_mem (s : State) (r : Byte) : (s.storeUnflagged r).mem = s.mem.write s.secondAddr r := rfl

end Sys2Proof.Machine
end

