-- ==== Sys2Proof/Laws/Memory.lean ====
section
/-! SUPPORT. The laws of memory: a read after a write (R31), and that every operation over memory keeps the
canonical form. -/

namespace Sys2Proof.Machine

theorem Memory.get_dropCell (m : Memory) (a b : Nat) :
    (m.dropCell a).get b = if b = a then Memory.unlisted else m.get b := by
  induction m with
  | nil => simp [Memory.dropCell, Memory.get]
  | cons cell rest ih =>
    obtain ⟨k, w⟩ := cell
    by_cases hk : k = a
    · subst hk
      rw [Memory.dropCell, if_pos rfl, ih]
      by_cases hb : b = k
      · simp [hb]
      · simp [Memory.get, hb, Ne.symm hb]
    · by_cases hb : k = b
      · subst hb; simp [Memory.dropCell, Memory.get, hk]
      · simp [Memory.dropCell, Memory.get, ih, hk, hb]

/-- After a cell's entries are dropped, inserting one entry for it changes what that cell reads as and
no other. -/
theorem Memory.get_insertCell_dropCell (m : Memory) (a b : Nat) (v : Byte) :
    ((m.dropCell a).insertCell a v).get b = if b = a then v else m.get b := by
  induction m with
  | nil =>
    by_cases hb : b = a
    · simp [Memory.dropCell, Memory.insertCell, Memory.get, hb]
    · simp [Memory.dropCell, Memory.insertCell, Memory.get, hb, Ne.symm hb]
  | cons cell rest ih =>
    obtain ⟨k, w⟩ := cell
    by_cases hk : k = a
    · subst hk
      rw [Memory.dropCell, if_pos rfl, ih]
      by_cases hb : b = k
      · simp [hb]
      · simp [Memory.get, hb, Ne.symm hb]
    · rw [Memory.dropCell, if_neg hk, Memory.insertCell]
      split
      · have hdrop := Memory.get_dropCell rest a b
        by_cases hb : b = a
        · simp [Memory.get, hb]
        · by_cases hkb : k = b
          · simp [Memory.get, hb, Ne.symm hb, hkb]
          · simp [Memory.get, hb, Ne.symm hb, hkb, hdrop]
      · by_cases hkb : k = b
        · subst hkb; simp [Memory.get, hk]
        · simp [Memory.get, hkb, ih]

/-- All a `MemWrite` does to what memory reads as (R31). -/
theorem Memory.read_write (m : Memory) (a b : Addr) (v : Byte) :
    (m.write a v).read b = if b = a then v else m.read b := by
  have hab : (b.toNat = a.toNat) ↔ b = a := BitVec.toNat_inj
  unfold Memory.write Memory.read
  split
  · next hv => rw [Memory.get_dropCell, hv]; simp [hab]
  · rw [Memory.get_insertCell_dropCell]; simp [hab]

theorem Memory.read_write_same (m : Memory) (a : Addr) (v : Byte) : (m.write a v).read a = v := by
  simp [Memory.read_write]

theorem Memory.read_write_other (m : Memory) {a b : Addr} (v : Byte) (h : b ≠ a) :
    (m.write a v).read b = m.read b := by
  simp [Memory.read_write, h]

/-- All a `MemWrite` does to the state (R31). -/
theorem State.read_write (s : State) (a b : Addr) (v : Byte) :
    (s.write a v).read b = if b = a then v else s.read b :=
  Memory.read_write s.mem a b v

theorem State.read_push (s : State) (b : Addr) (v : Byte) :
    (s.push v).read b = if b = s.sp then v else s.read b :=
  Memory.read_write s.mem s.sp b v

theorem State.read_storeUnflagged (s : State) (b : Addr) (r : Byte) :
    (s.storeUnflagged r).read b = if b = s.secondAddr then r else s.read b :=
  Memory.read_write s.mem s.secondAddr b r

/-- What the two stores of add and sub leave when the PSW is stored last (R101). -/
theorem Memory.read_storeResult_last (m : Memory) (a b : Addr) (r : Byte) :
    (m.storeResult true a r).read b
      = if b = Config.pswAddr then pswOf r else if b = a then r else m.read b := by
  simp [Memory.storeResult, Memory.updatePsw, Memory.read_write]

/-- What the two stores of add and sub would leave in the other order (R101, U10). -/
theorem Memory.read_storeResult_first (m : Memory) (a b : Addr) (r : Byte) :
    (m.storeResult false a r).read b
      = if b = a then r else if b = Config.pswAddr then pswOf r else m.read b := by
  simp [Memory.storeResult, Memory.updatePsw, Memory.read_write]

/-- All add and sub do to memory (R97, R98, R101). -/
theorem State.read_storeFlagged (s : State) (b : Addr) (r : Byte) :
    (s.storeFlagged r).read b
      = if b = Config.pswAddr then pswOf r else if b = s.secondAddr then r else s.read b :=
  Memory.read_storeResult_last s.mem s.secondAddr b r

theorem Memory.wfFrom_mono {m : Memory} {lo lo' : Nat} (hle : lo' ≤ lo) (h : m.wfFrom lo = true) :
    m.wfFrom lo' = true := by
  cases m with
  | nil => rfl
  | cons cell rest =>
    obtain ⟨k, w⟩ := cell
    simp only [Memory.wfFrom, Bool.and_eq_true, decide_eq_true_eq] at h ⊢
    exact ⟨⟨⟨Nat.le_trans hle h.1.1.1, h.1.1.2⟩, h.1.2⟩, h.2⟩

theorem Memory.wfFrom_dropCell {m : Memory} {lo : Nat} (a : Nat) (h : m.wfFrom lo = true) :
    (m.dropCell a).wfFrom lo = true := by
  induction m generalizing lo with
  | nil => rfl
  | cons cell rest ih =>
    obtain ⟨k, w⟩ := cell
    simp only [Memory.wfFrom, Bool.and_eq_true, decide_eq_true_eq] at h
    rw [Memory.dropCell]
    split
    · exact Memory.wfFrom_mono (Nat.le_succ_of_le h.1.1.1) (ih h.2)
    · simp only [Memory.wfFrom, Bool.and_eq_true, decide_eq_true_eq]
      exact ⟨h.1, ih h.2⟩

theorem Memory.wfFrom_insertCell_dropCell {m : Memory} {lo a : Nat} {v : Byte} (hlo : lo ≤ a)
    (ha : a < Config.memSize) (hv : v ≠ Memory.unlisted) (h : m.wfFrom lo = true) :
    ((m.dropCell a).insertCell a v).wfFrom lo = true := by
  induction m generalizing lo with
  | nil => simp [Memory.dropCell, Memory.insertCell, Memory.wfFrom, hlo, ha, hv]
  | cons cell rest ih =>
    obtain ⟨k, w⟩ := cell
    simp only [Memory.wfFrom, Bool.and_eq_true, decide_eq_true_eq] at h
    rw [Memory.dropCell]
    split
    · exact ih hlo (Memory.wfFrom_mono (Nat.le_succ_of_le h.1.1.1) h.2)
    · next hk =>
      rw [Memory.insertCell]
      split
      · next hak =>
        simp only [Memory.wfFrom, Bool.and_eq_true, decide_eq_true_eq]
        exact ⟨⟨⟨hlo, ha⟩, hv⟩, ⟨⟨hak, h.1.1.2⟩, h.1.2⟩, Memory.wfFrom_dropCell a h.2⟩
      · next hak =>
        simp only [Memory.wfFrom, Bool.and_eq_true, decide_eq_true_eq]
        exact ⟨h.1, ih (by omega) h.2⟩

/-- A write keeps the canonical form. -/
theorem Memory.wf_write {m : Memory} (a : Addr) (v : Byte) (h : m.wf = true) : (m.write a v).wf = true := by
  unfold Memory.write Memory.wf
  split
  · exact Memory.wfFrom_dropCell _ h
  · next hv => exact Memory.wfFrom_insertCell_dropCell (Nat.zero_le _) a.isLt hv h

theorem Memory.wf_writeBytes {m : Memory} (a : Addr) (bs : List Byte) (h : m.wf = true) :
    (m.writeBytes a bs).wf = true := by
  induction bs generalizing m a with
  | nil => exact h
  | cons v rest ih => exact ih (a + 1) (Memory.wf_write a v h)

theorem Memory.wf_storeResult {m : Memory} (pswLast : Bool) (a : Addr) (r : Byte) (h : m.wf = true) :
    (m.storeResult pswLast a r).wf = true := by
  unfold Memory.storeResult Memory.updatePsw
  split <;> exact Memory.wf_write _ _ (Memory.wf_write _ _ h)

theorem State.reset_mem_wf : State.reset.mem.wf = true := rfl

end Sys2Proof.Machine
end

