-- ==== Sys2Proof/Laws/Exec.lean ====
section
/-! SUPPORT. One equation per instruction and the two cases of a step: what exec and step answer, in the
named operations, for proofs to rewrite with instead of unfolding. -/

namespace Sys2Proof.Machine

theorem exec_nop (s : State) : exec .nop s = .next (s.advance 1) := rfl
theorem exec_halt (s : State) : exec .halt s = .next ((s.advance 1).setHalt true) := rfl
theorem exec_pushimm (imm : Byte) (s : State) : exec (.pushimm imm) s = .next ((s.advance 2).push imm) := rfl
theorem exec_pushext (addr : Addr) (s : State) :
    exec (.pushext addr) s = .next ((s.advance 3).push (s.read addr)) := rfl
theorem exec_popinh (s : State) : exec .popinh s = .next (s.advance 1).pop := rfl
theorem exec_popext (addr : Addr) (s : State) :
    exec (.popext addr) s = .next ((s.advance 3).write addr s.top).pop := rfl
theorem exec_jnz (addr : Addr) (s : State) : exec (.jnz addr) s = .next (s.jumpIf (jnzTaken s.psw) addr) := rfl
theorem exec_jnn (addr : Addr) (s : State) : exec (.jnn addr) s = .next (s.jumpIf (jnnTaken s.psw) addr) := rfl
theorem exec_add (s : State) : exec .add s = .next ((s.advance 1).storeFlagged (s.second + s.top)) := rfl
theorem exec_sub (s : State) : exec .sub s = .next ((s.advance 1).storeFlagged (s.top - s.second)) := rfl
theorem exec_nor (s : State) :
    exec .nor s = .next ((s.advance 1).storeUnflagged (~~~(s.second ||| s.top))) := rfl
theorem exec_invalid (op : Byte) (s : State) : exec (.invalid op) s = .next (s.advance 1).raiseInvalidOpcode := rfl

/-- A jump writes `pc` and nothing else. -/
theorem State.jumpIf_eq (s : State) (taken : Bool) (addr : Addr) :
    s.jumpIf taken addr = s.setPc (if taken then addr else s.pc + 3) := by
  unfold State.jumpIf; split <;> rfl

theorem State.stopped_iff (s : State) : s.stopped = true ↔ s.fault = true ∨ s.halt = true := by
  simp [State.stopped]

theorem State.not_stopped_iff (s : State) : s.stopped = false ↔ s.fault = false ∧ s.halt = false := by
  simp [State.stopped]

/-- A step of a stopped core (R65). -/
theorem step_of_stopped {s : State} (h : s.stopped = true) : step s = .next s := by simp [step, h]

/-- A step of a running core (R65). -/
theorem step_of_running {s : State} (h : s.stopped = false) : step s = exec s.fetchInstr s := by
  simp [step, h]

/-- The instruction at `pc`, by the three bytes from there (R54, R66). -/
theorem State.fetchInstr_eq (s : State) :
    s.fetchInstr = decodeWindow (s.read s.pc) (s.read (s.pc + 1)) (s.read (s.pc + 2)) := by
  simp [State.fetchInstr, State.streamByte]

theorem steps_zero (s : State) : steps 0 s = .next s := rfl

/-- Taking one Step and then `n` more. -/
theorem steps_succ {s t : State} (n : Nat) (h : step s = .next t) : steps (n + 1) s = steps n t := by
  simp [steps, h]

/-- The host's run of the core is that many Steps. -/
theorem core_run_eq_steps (n : Nat) (s : State) : Sys2Proof.core.run n s = steps n s := by
  induction n generalizing s with
  | zero => rfl
  | succ n ih =>
    have h : Sys2Proof.core.step s = step s := rfl
    simp only [Host.Core.run, steps, h]
    cases hs : step s with
    | next t => exact ih t
    | fault r => rfl
    | refused r => rfl

end Sys2Proof.Machine
end

