-- ==== Sys2Proof/Laws/PerInstr.lean ====
section
/-! SUPPORT. Families of statements about every instruction as syntax, one lemma per constructor. -/

namespace Sys2Proof.Laws.EncodedShape

/-- The encoding begins with the opcode byte, and both it and that byte's format give the length (R50, R59). -/
def Statement (i : Instr) : Prop :=
  i.wf = true →
    (encode i).head? = some i.opcode ∧ (encode i).length = i.length ∧ formatLength (formatOf i.opcode) = i.length

theorem nop : Statement .nop := fun _ => ⟨rfl, rfl, rfl⟩
theorem halt : Statement .halt := fun _ => ⟨rfl, rfl, rfl⟩
theorem pushimm (imm : Byte) : Statement (.pushimm imm) := fun _ => ⟨rfl, rfl, rfl⟩
theorem pushext (addr : Addr) : Statement (.pushext addr) := fun _ => ⟨rfl, rfl, rfl⟩
theorem popinh : Statement .popinh := fun _ => ⟨rfl, rfl, rfl⟩
theorem popext (addr : Addr) : Statement (.popext addr) := fun _ => ⟨rfl, rfl, rfl⟩
theorem jnz (addr : Addr) : Statement (.jnz addr) := fun _ => ⟨rfl, rfl, rfl⟩
theorem jnn (addr : Addr) : Statement (.jnn addr) := fun _ => ⟨rfl, rfl, rfl⟩
theorem add : Statement .add := fun _ => ⟨rfl, rfl, rfl⟩
theorem sub : Statement .sub := fun _ => ⟨rfl, rfl, rfl⟩
theorem nor : Statement .nor := fun _ => ⟨rfl, rfl, rfl⟩

/-- An opcode byte from 11 up has the one-byte format. -/
theorem invalid (op : Byte) : Statement (.invalid op) := by
  intro h
  refine ⟨rfl, rfl, ?_⟩
  have h11 : 11 ≤ op.toNat := by simpa [Instr.wf] using h
  show formatLength (formatOf op) = 1
  unfold formatOf
  split <;> first | rfl | (exact absurd h11 (by decide))

end Sys2Proof.Laws.EncodedShape
end

