-- ==== Sys2Proof/Tests/Slice0.lean ====
section
/-! SUPPORT. The model's own tests: well-formedness, decoding of words written out from the spec, one-step
vectors of 95_test_vectors.md, and a witness for the hypotheses of each statement that has some. -/

namespace Sys2Proof.Tests

open Sys2Proof Sys2Proof.Machine

/-! ## Helpers -/

/-- The launch of 95_test_vectors.md: an image at 0x0000, all other memory zero, then Reset. -/
def launch (image : List Byte) : State := State.reset.setMem (Memory.writeBytes [] 0x0000 image)

/-- The state with further bytes placed. -/
def place (s : State) (a : Addr) (bs : List Byte) : State := s.setMem (s.mem.writeBytes a bs)

/-- The state after one step (the model's step always answers one). -/
def after (s : State) : State :=
  match step s with
  | .next t => t
  | .fault _ => s
  | .refused _ => s

/-! ## Well-formedness -/

theorem test_wf_refuses_defined_opcode_as_invalid : (Instr.invalid 0x0A).wf = false := by decide
theorem test_wf_accepts_first_invalid_opcode : (Instr.invalid 0x0B).wf = true := by decide
theorem test_wf_accepts_any_operand : (Instr.pushimm 0xFF).wf = true ∧ (Instr.jnz 0xFFFF).wf = true := by decide

/-! ## Decoding, words written out from R51 to R56 and the byte rows of opcode_table.json -/

theorem test_decode_nop : decode [0b00000000] = .ok (.nop, []) := by rfl
theorem test_decode_halt : decode [0b00000001] = .ok (.halt, []) := by rfl
/-- R55: bytes 02 FF -/
theorem test_decode_pushimm : decode [0b00000010, 0xFF] = .ok (.pushimm 255, []) := by rfl
/-- R54: bytes 03 12 34 -/
theorem test_decode_pushext : decode [0b00000011, 0x12, 0x34] = .ok (.pushext 0x1234, []) := by rfl
theorem test_decode_popinh : decode [0b00000100, 0x07] = .ok (.popinh, [0x07]) := by rfl
/-- R83: bytes 05 FF FC -/
theorem test_decode_popext : decode [0b00000101, 0xFF, 0xFC] = .ok (.popext 0xFFFC, []) := by rfl
/-- R90: bytes 06 12 34 -/
theorem test_decode_jnz : decode [0b00000110, 0x12, 0x34] = .ok (.jnz 0x1234, []) := by rfl
/-- R91: bytes 07 00 10 -/
theorem test_decode_jnn : decode [0b00000111, 0x00, 0x10] = .ok (.jnn 0x0010, []) := by rfl
theorem test_decode_add : decode [0b00001000] = .ok (.add, []) := by rfl
theorem test_decode_sub : decode [0b00001001] = .ok (.sub, []) := by rfl
theorem test_decode_nor : decode [0b00001010] = .ok (.nor, []) := by rfl
/-- R57: 0x0B and 0xFF are the ends of the invalid range -/
theorem test_decode_invalid :
    decode [0x0B] = .ok (.invalid 0x0B, []) ∧ decode [0xFF, 0x00] = .ok (.invalid 0xFF, [0x00]) := ⟨by rfl, by rfl⟩
theorem test_decode_refuses_short : decode [0x03, 0x12] = .error (.missingOperand 0x03) := by rfl
theorem test_decode_refuses_empty : decode [] = .error .noOpcode := by rfl
/-- In a table word the byte after the opcode is bits 15 to 8, so `hi` of 03 12 34 is there. -/
theorem test_table_word_pushext : decodeTableWord 24 0x341203 = some (.pushext 0x1234) := by decide
/-- Bits above the ones the table gives the row are zero. -/
theorem test_table_word_short : decodeTableWord 8 0x341203 = some (.pushext 0x0000) := by decide
theorem test_encode_popext : encode (.popext 0xFFFC) = [0x05, 0xFF, 0xFC] := by decide
theorem test_place_and_step :
    after (State.reset.withFetchWord 16 0x2A02) = { State.reset with pc := 2, sp := 0xFFF9, mem := [(0, 0x02), (1, 0x2A), (0xFFFA, 0x2A)] } := by
  decide

/-! ## Vectors, one step each -/

/-- V-S1 -/
theorem test_nop : after { State.reset with pc := 0x0010 } = { State.reset with pc := 0x0011 } := by decide
/-- V-S2 -/
theorem test_nop_wraps : after { State.reset with pc := 0xFFFF } = { State.reset with pc := 0x0000 } := by decide
/-- V-S3, S5 -/
theorem test_halt : after (launch [0x01]) = { launch [0x01] with pc := 1, halt := true } := by decide
/-- V-S4 -/
theorem test_halted_core_stays : after (after (launch [0x01])) = after (launch [0x01]) := by decide
/-- V-S5 -/
theorem test_invalid : after (launch [0x0B]) = { launch [0x0B] with pc := 1, fault := true } := by decide
/-- V-S8 -/
theorem test_invalid_wraps :
    (after (place { State.reset with pc := 0xFFFF } 0xFFFF [0x80])).pc = 0x0000
      ∧ (after (place { State.reset with pc := 0xFFFF } 0xFFFF [0x80])).fault = true := by decide
/-- V-K2: the push at `sp` 0x0000 wraps it to 0xFFFF -/
theorem test_pushimm_wraps_sp :
    (after (place { State.reset with pc := 0x0100, sp := 0x0000 } 0x0100 [0x02, 0x55])).sp = 0xFFFF
      ∧ (after (place { State.reset with pc := 0x0100, sp := 0x0000 } 0x0100 [0x02, 0x55])).read 0x0000 = 0x55 := by
  decide
/-- V-K3: the instruction straddles the top of the address space -/
theorem test_pushimm_straddles :
    after (place { State.reset with pc := 0xFFFF } 0xFFFF [0x02, 0x2A])
      = { State.reset with pc := 1, sp := 0xFFF9, mem := [(0, 0x2A), (0xFFFA, 0x2A), (0xFFFF, 0x02)] } := by decide
/-- V-K5 -/
theorem test_pushext :
    (after (place (launch [0x03, 0x01, 0x00]) 0x0100 [0x77])).read 0xFFFA = 0x77
      ∧ (after (place (launch [0x03, 0x01, 0x00]) 0x0100 [0x77])).pc = 0x0003 := by decide
/-- V-K8: pushing the PSW byte -/
theorem test_pushext_psw : (after (place (launch [0x03, 0xFF, 0xFB]) 0xFFFB [0x40])).read 0xFFFA = 0x40 := by decide
/-- V-K11 -/
theorem test_popinh_wraps :
    after (place { State.reset with pc := 0x0100, sp := 0xFFFF } 0x0100 [0x04])
      = { State.reset with pc := 0x0101, sp := 0x0000, mem := [(0x0100, 0x04)] } := by decide
/-- V-K13: port A written, the popped byte stays -/
theorem test_popext_port :
    after (place { launch [0x05, 0xFF, 0xFC] with sp := 0xFFF9 } 0xFFFA [0x08])
      = place (place { launch [0x05, 0xFF, 0xFC] with pc := 3 } 0xFFFA [0x08]) 0xFFFC [0x08] := by decide
/-- V-K16, first step: the empty stack's top is the PSW cell -/
theorem test_popext_underflow : (after (place (launch [0x05, 0x00, 0x50]) 0xFFFB [0x40])).read 0x0050 = 0x40 := by decide
/-- V-J3 and V-J5: only exactly 0x80 falls through -/
theorem test_jnz :
    (after (place (launch [0x06, 0x12, 0x34]) 0xFFFB [0x80])).pc = 0x0003
      ∧ (after (place (launch [0x06, 0x12, 0x34]) 0xFFFB [0x81])).pc = 0x1234 := by decide
/-- V-J14: an untaken jump across the top of the address space -/
theorem test_jnz_straddles :
    (after (place { State.reset with pc := 0xFFFE, mem := [(0xFFFB, 0x80)] } 0xFFFE [0x06, 0x00, 0x08])).pc = 0x0001 := by
  decide
/-- V-J8 and V-J11: only exactly 0x40 falls through -/
theorem test_jnn :
    (after (place (launch [0x07, 0x12, 0x34]) 0xFFFB [0x40])).pc = 0x0003
      ∧ (after (place (launch [0x07, 0x12, 0x34]) 0xFFFB [0x41])).pc = 0x1234 := by decide
/-- V-A4, the third step: 0x7F + 0x01 is 0x80, which sets neither flag -/
theorem test_add_128 :
    after (place { launch [0x08] with sp := 0xFFF8, mem := [(0, 0x08), (0xFFFB, 0x40)] } 0xFFF9 [0x01, 0x7F])
      = { State.reset with pc := 1, sp := 0xFFF9, mem := [(0, 0x08), (0xFFF9, 0x01), (0xFFFA, 0x80)] } := by decide
/-- V-O2, the second step: second is the PSW cell, which ends as the encoding of 0xFF -/
theorem test_add_at_psw :
    (after (place { launch [0x08] with sp := 0xFFF9 } 0xFFFA [0x7F, 0x80])).read 0xFFFB = 0x40 := by decide
/-- V-B9: top 1 minus second 2 -/
theorem test_sub_order :
    (after (place { launch [0x09] with sp := 0xFFF8 } 0xFFF9 [0x01, 0x02])).read 0xFFFA = 0xFF
      ∧ (after (place { launch [0x09] with sp := 0xFFF8 } 0xFFF9 [0x01, 0x02])).read 0xFFFB = 0x40 := by decide
/-- V-B12: equal operands -/
theorem test_sub_equal :
    (after (place { launch [0x09] with sp := 0xFFF8 } 0xFFF9 [0x80, 0x80])).read 0xFFFB = 0x80 := by decide
/-- R99, the example: the PSW stays -/
theorem test_nor :
    (after (place { launch [0x0A] with sp := 0xFFF8 } 0xFFF9 [0x34, 0x12, 0x40])).read 0xFFFA = 0xC9
      ∧ (after (place { launch [0x0A] with sp := 0xFFF8 } 0xFFF9 [0x34, 0x12, 0x40])).read 0xFFFB = 0x40 := by decide
/-- V-O3, the second step: the zero result is stored in the PSW cell as data -/
theorem test_nor_at_psw :
    (after (place { launch [0x0A] with sp := 0xFFF9 } 0xFFFA [0x7F, 0x80])).read 0xFFFB = 0x00 := by decide
/-- V-R2 -/
theorem test_host_reset :
    State.hostReset ⟨0x1234, 0x0042, true, false, [(0, 0x0B), (0xFFFB, 0x40), (0xFFFC, 0x99)]⟩
      = ⟨0x0000, 0xFFFA, false, false, [(0, 0x0B), (0xFFFB, 0x40), (0xFFFC, 0x99)]⟩ := by decide
/-- V-R5: bytes past the image stay -/
theorem test_load_image :
    State.loadImage { State.construction with mem := [(3, 0xFF)] } [0x02, 0x2A, 0x01]
      = .next { State.construction with mem := [(0, 0x02), (1, 0x2A), (2, 0x01), (3, 0xFF)] } := by rfl
/-- S5: a Run of the image 01 -/
theorem test_run_halt : runFor 1 (launch [0x01]) = some { launch [0x01] with pc := 1, halt := true } := by decide
/-- R34: the accesses of `sub` in order -/
theorem test_accesses_sub :
    (pseudoStep { launch [0x09] with sp := 0xFFF8 }).log
      = [.fetch 0, .read 0xFFF9, .read 0xFFFA, .write 0xFFFA, .write 0xFFFB] := by decide
/-- A write of the unlisted byte takes the entry out, so equal memories are equal data. -/
theorem test_memory_canonical : Memory.write [(5, 0x01)] 5 0x00 = [] ∧ Memory.wf [(5, 0x00)] = false
    ∧ Memory.wf [(6, 0x01), (5, 0x01)] = false ∧ Memory.wf [(65536, 0x01)] = false := by decide

/-! ## Witnesses: the hypotheses of each statement, together, in one concrete case; where a statement has
several clauses, each at a boundary of its range -/

theorem witness_DecodeEncodeRoundTrip : (Instr.invalid 0x0B).wf = true := by decide

theorem witness_DecodedBytesAreTheEncoding : decode [0x03, 0xFF, 0xFF, 0x01] = .ok (.pushext 0xFFFF, [0x01]) := by rfl

theorem witness_InvalidOpcodesExactly :
    (launch [0x0B]).Running ∧ 11 ≤ ((launch [0x0B]).read (launch [0x0B]).pc).toNat := by decide

theorem witness_OpcodeGivesLength :
    (3 : Nat) = (if (0x07 : Byte) = 0x02 then 2 else if (0x07 : Byte) = 0x03 ∨ (0x07 : Byte) = 0x05 ∨ (0x07 : Byte) = 0x06 ∨ (0x07 : Byte) = 0x07 then 3 else 1)
      ∧ 3 ≤ ([0x00, 0x10] : List Byte).length + 1 ∧ ([0x00] : List Byte).length + 1 < 3 := by decide

theorem witness_StepRunsDecodedInstruction :
    (launch [0x02, 0x2A]).Running
      ∧ decode [(launch [0x02, 0x2A]).read 0, (launch [0x02, 0x2A]).read 1, (launch [0x02, 0x2A]).read 2]
        = .ok (.pushimm 0x2A, [0x00]) := ⟨by decide, by rfl⟩

/-- At 0xFFFE, so that the last byte is at 0x0000. -/
theorem witness_StepRunsStoredEncoding :
    (place { State.reset with pc := 0xFFFE } 0xFFFE [0x03, 0x12, 0x34]).Running ∧ (Instr.pushext 0x1234).wf = true
      ∧ (place { State.reset with pc := 0xFFFE } 0xFFFE [0x03, 0x12, 0x34]).HoldsBytes 0xFFFE (encode (.pushext 0x1234)) := by
  refine ⟨by decide, by decide, ?_⟩
  intro k h
  have hk : k < 3 := h
  match k, hk with
  | 0, _ => rfl
  | 1, _ => rfl
  | 2, _ => rfl

theorem witness_StepGuard :
    State.reset.Running ∧ ({ State.reset with fault := true } : State).fault = true
      ∧ ({ State.reset with halt := true } : State).halt = true := by decide

theorem witness_StepAlwaysAnswersNext : ∀ op, Instr.nor ≠ .invalid op := by intro op h; cases h

/-- A stopped core, and a running one at each row of the table. -/
theorem witness_PcAfterStep :
    ({ State.reset with halt := true } : State).stopped = true
      ∧ (launch [0x02, 0x01]).read 0 = 0x02 ∧ (launch [0x05, 0x01]).read 0 = 0x05
      ∧ (place (launch [0x06, 0x12, 0x34]) 0xFFFB [0x80]).read 0xFFFB = 0x80
      ∧ (place (launch [0x07, 0x12, 0x34]) 0xFFFB [0x40]).read 0xFFFB = 0x40 ∧ (launch [0x0B]).read 0 = 0x0B := by
  decide

theorem witness_SpAfterStep :
    (launch [0x03]).read 0 = 0x03 ∧ (launch [0x0A]).read 0 = 0x0A ∧ (launch [0x06]).read 0 = 0x06
      ∧ ({ State.reset with fault := true } : State).stopped = true := by decide

/-- Two states that differ in a byte the step does not read. -/
theorem witness_StepReadsOnlyItsFootprint :
    (launch [0x02, 0x2A]).status = (launch [0x02, 0x2A, 0x07]).status
      ∧ (∀ a ∈ (launch [0x02, 0x2A]).stepReads, (launch [0x02, 0x2A]).read a = (launch [0x02, 0x2A, 0x07]).read a)
      ∧ step (launch [0x02, 0x2A]) = .next (after (launch [0x02, 0x2A]))
      ∧ step (launch [0x02, 0x2A, 0x07]) = .next (after (launch [0x02, 0x2A, 0x07])) := by
  refine ⟨by decide, ?_, by rfl, by rfl⟩
  have h : (launch [0x02, 0x2A]).stepReads = [0x0000, 0x0001] := by decide
  intro a ha
  rw [h] at ha
  rcases List.mem_pair.1 ha with rfl | rfl <;> decide

theorem witness_OpcodeDecidesTheEvent :
    (launch [0x01]).Running ∧ step (launch [0x01]) = .next (after (launch [0x01])) := ⟨by decide, by rfl⟩

theorem witness_StepKeepsInvariant :
    (launch [0x02, 0x2A]).Inv ∧ step (launch [0x02, 0x2A]) = .next (after (launch [0x02, 0x2A])) := ⟨by decide, by rfl⟩

theorem witness_HostMovesKeepInvariant :
    State.reset.Inv ∧ HostMove (.portWrite .b 0xC8) State.reset (State.reset.portWrite .b 0xC8)
      ∧ HostMove .run (launch [0x01]) (after (launch [0x01])) := ⟨by decide, rfl, 1, by rfl⟩

theorem witness_PswEncodingKept :
    (launch [0x08]).Running ∧ step (launch [0x08]) = .next (after (launch [0x08])) ∧ (launch [0x08]).fetchInstr = .add
      ∧ step State.reset = .next (after State.reset) ∧ 0xFFFB ∉ State.reset.stepStores
      ∧ PswEncoding (State.reset.read 0xFFFB) :=
  ⟨by decide, by rfl, by decide, by rfl, by decide, by decide⟩

theorem witness_NopResult : State.reset.Running ∧ State.reset.read State.reset.pc = 0x00 := by decide
theorem witness_HaltResult : (launch [0x01]).Running ∧ (launch [0x01]).read (launch [0x01]).pc = 0x01 := by decide
theorem witness_InvalidOpcodeResult :
    (launch [0x0B]).Running ∧ (launch [0x0B]).read (launch [0x0B]).pc = 0x0B ∧ 0x0B ≤ (0x0B : Byte).toNat := by decide
theorem witness_PushimmResult :
    (launch [0x02, 0x2A]).Running ∧ (launch [0x02, 0x2A]).read 0 = 0x02 ∧ (launch [0x02, 0x2A]).read 1 = 0x2A := by decide
theorem witness_PushextResult :
    (launch [0x03, 0xFF, 0xFB]).Running ∧ (launch [0x03, 0xFF, 0xFB]).read 0 = 0x03
      ∧ (0xFFFB : Addr).toNat
        = ((launch [0x03, 0xFF, 0xFB]).read 1).toNat * 256 + ((launch [0x03, 0xFF, 0xFB]).read 2).toNat := by decide
theorem witness_PopinhResult : (launch [0x04]).Running ∧ (launch [0x04]).read 0 = 0x04 := by decide
theorem witness_PopextResult :
    (launch [0x05, 0xFF, 0xFC]).Running ∧ (launch [0x05, 0xFF, 0xFC]).read 0 = 0x05
      ∧ (0xFFFC : Addr).toNat
        = ((launch [0x05, 0xFF, 0xFC]).read 1).toNat * 256 + ((launch [0x05, 0xFF, 0xFC]).read 2).toNat := by decide
theorem witness_JnzResult :
    (launch [0x06, 0x12, 0x34]).read 0xFFFB ≠ 0x80
      ∧ (place (launch [0x06, 0x12, 0x34]) 0xFFFB [0x80]).read 0xFFFB = 0x80
      ∧ (launch [0x06, 0x12, 0x34]).Running ∧ (launch [0x06, 0x12, 0x34]).read 0 = 0x06
      ∧ (0x1234 : Addr).toNat
        = ((launch [0x06, 0x12, 0x34]).read 1).toNat * 256 + ((launch [0x06, 0x12, 0x34]).read 2).toNat := by decide
theorem witness_JnnResult :
    (launch [0x07, 0x12, 0x34]).read 0xFFFB ≠ 0x40
      ∧ (place (launch [0x07, 0x12, 0x34]) 0xFFFB [0x40]).read 0xFFFB = 0x40
      ∧ (launch [0x07, 0x12, 0x34]).Running ∧ (launch [0x07, 0x12, 0x34]).read 0 = 0x07
      ∧ (0x1234 : Addr).toNat
        = ((launch [0x07, 0x12, 0x34]).read 1).toNat * 256 + ((launch [0x07, 0x12, 0x34]).read 2).toNat := by decide
theorem witness_AddResult :
    (launch [0x08]).Running ∧ (launch [0x08]).read 0 = 0x08 ∧ (launch [0x08]).sp ≠ 0xFFF9 ∧ (0xFFFC : Addr) ≠ 0xFFFB
      ∧ (0x00 : Byte) = (launch [0x08]).read ((launch [0x08]).sp + 2) + (launch [0x08]).read ((launch [0x08]).sp + 1) := by
  decide
theorem witness_SubResult :
    (launch [0x09]).Running ∧ (launch [0x09]).read 0 = 0x09 ∧ (launch [0x09]).sp ≠ 0xFFF9 ∧ (0xFFFC : Addr) ≠ 0xFFFB
      ∧ (0x00 : Byte) = (launch [0x09]).read ((launch [0x09]).sp + 1) - (launch [0x09]).read ((launch [0x09]).sp + 2) := by
  decide
theorem witness_NorResult : (launch [0x0A]).Running ∧ (launch [0x0A]).read 0 = 0x0A := by decide

theorem witness_AluResultAtThePswCell :
    ({ launch [0x08] with sp := 0xFFF9 } : State).sp = 0xFFF9
      ∧ (0x00 : Byte) = ({ launch [0x08] with sp := 0xFFF9 } : State).read 0xFFFB
          + ({ launch [0x08] with sp := 0xFFF9 } : State).read 0xFFFA
      ∧ exec .add { launch [0x08] with sp := 0xFFF9 } = .next (after { launch [0x08] with sp := 0xFFF9 })
      ∧ (0x00 : Byte) = ({ launch [0x09] with sp := 0xFFF9 } : State).read 0xFFFA
          - ({ launch [0x09] with sp := 0xFFF9 } : State).read 0xFFFB
      ∧ exec .sub { launch [0x09] with sp := 0xFFF9 } = .next (after { launch [0x09] with sp := 0xFFF9 }) :=
  ⟨by decide, by decide, by rfl, by decide, by rfl⟩

theorem witness_UpdatePswWrites :
    exec .nor (launch [0x0A]) = .next (after (launch [0x0A])) ∧ Instr.nor ≠ .add ∧ Instr.nor ≠ .sub
      ∧ 0xFFFB ∉ storeAddrs .nor (launch [0x0A]) ∧ (0xFFFA : Addr) ≠ 0xFFFB :=
  ⟨by rfl, by decide, by decide, by decide, by decide⟩

theorem witness_StoreOrderMattersOnlyAtThePswCell :
    Memory.wf [(5, 0x01)] = true ∧ (0xFFFA : Addr) ≠ 0xFFFB := by decide

theorem witness_WritersOfThePsw :
    (launch [0x08]).Running ∧ step (launch [0x08]) = .next (after (launch [0x08]))
      ∧ (after (launch [0x08])).read 0xFFFB ≠ (launch [0x08]).read 0xFFFB := ⟨by decide, by rfl, by decide⟩

/-- The operands at their bound. -/
theorem witness_SubComparesSmallOperands :
    ((place { launch [0x09] with sp := 0xFFF8 } 0xFFF9 [0x7F, 0x7F]).read 0xFFF9).toNat ≤ 127
      ∧ ((place { launch [0x09] with sp := 0xFFF8 } 0xFFF9 [0x7F, 0x7F]).read 0xFFFA).toNat ≤ 127
      ∧ exec .sub (place { launch [0x09] with sp := 0xFFF8 } 0xFFF9 [0x7F, 0x7F])
        = .next (after (place { launch [0x09] with sp := 0xFFF8 } 0xFFF9 [0x7F, 0x7F])) :=
  ⟨by decide, by decide, by rfl⟩

theorem witness_SignedAndUnsignedReadingsAgree :
    (0x00 : Byte) = (launch [0x08]).read ((launch [0x08]).sp + 1) ∧ (0x00 : Byte) = (launch [0x08]).read ((launch [0x08]).sp + 2)
      ∧ (launch [0x08]).sp ≠ 0xFFF9 ∧ exec .add (launch [0x08]) = .next (after (launch [0x08]))
      ∧ exec .sub (launch [0x09]) = .next (after (launch [0x09])) :=
  ⟨by decide, by decide, by decide, by rfl, by rfl⟩

theorem witness_FrameOfNonStoringInstructions :
    exec .nop State.reset = .next (after State.reset) ∧ exec .halt (launch [0x01]) = .next (after (launch [0x01]))
      ∧ exec .popinh (launch [0x04]) = .next (after (launch [0x04]))
      ∧ exec (.jnz 0x0010) (launch [0x06, 0x00, 0x10]) = .next (after (launch [0x06, 0x00, 0x10]))
      ∧ exec (.jnn 0x0010) (launch [0x07, 0x00, 0x10]) = .next (after (launch [0x07, 0x00, 0x10]))
      ∧ exec (.invalid 0x0B) (launch [0x0B]) = .next (after (launch [0x0B])) :=
  ⟨by rfl, by rfl, by rfl, by rfl, by rfl, by rfl⟩

theorem witness_FrameOfStoringInstructions :
    exec (.pushimm 0x2A) (launch [0x02, 0x2A]) = .next (after (launch [0x02, 0x2A]))
      ∧ exec (.pushext 0x0001) (launch [0x03, 0x00, 0x01]) = .next (after (launch [0x03, 0x00, 0x01]))
      ∧ exec (.popext 0xFFFC) (launch [0x05, 0xFF, 0xFC]) = .next (after (launch [0x05, 0xFF, 0xFC]))
      ∧ exec .nor (launch [0x0A]) = .next (after (launch [0x0A]))
      ∧ exec .add (launch [0x08]) = .next (after (launch [0x08])) ∧ exec .sub (launch [0x09]) = .next (after (launch [0x09])) :=
  ⟨by rfl, by rfl, by rfl, by rfl, by rfl, by rfl⟩

/-- One step, a push at 0xFFFA; the cell is port A. -/
theorem witness_CellKeptUntilStored :
    steps 1 (launch [0x02, 0x2A]) = .next (after (launch [0x02, 0x2A]))
      ∧ ∀ k < 1, ∀ u : State, steps k (launch [0x02, 0x2A]) = .next u → 0xFFFC ∉ u.stepStores := by
  refine ⟨by rfl, ?_⟩
  intro k hk u hu
  obtain rfl : k = 0 := by omega
  cases hu
  decide

theorem witness_PcAndLatchesAreNotData :
    (launch [0x02, 0x2A]).sp = ({ launch [0x02, 0x2A] with pc := 0x0100, fault := true } : State).sp
      ∧ (launch [0x02, 0x2A]).mem = ({ launch [0x02, 0x2A] with pc := 0x0100, fault := true } : State).mem
      ∧ exec .nop (launch [0x02, 0x2A]) = .next ((launch [0x02, 0x2A]).advance 1)
      ∧ exec .nop { launch [0x02, 0x2A] with pc := 0x0100, fault := true }
        = .next (State.advance { launch [0x02, 0x2A] with pc := 0x0100, fault := true } 1) :=
  ⟨by decide, by decide, by rfl, by rfl⟩

theorem witness_PushThenPopRestores :
    exec (.pushimm 0x2A) State.reset = .next ((State.reset.advance 2).push 0x2A)
      ∧ exec (.popext 0xFFFC) ((State.reset.advance 2).push 0x2A)
        = .next (State.pop ((((State.reset.advance 2).push 0x2A).advance 3).write 0xFFFC 0x2A))
      ∧ (0x0005 : Addr) ≠ 0xFFFC ∧ (0x0005 : Addr) ≠ State.reset.sp := ⟨by rfl, by rfl, by decide, by decide⟩

theorem witness_JumpPairAlwaysJumps :
    (launch [0x06, 0x00, 0x10, 0x07, 0x00, 0x10]).Running
      ∧ (launch [0x06, 0x00, 0x10, 0x07, 0x00, 0x10]).HoldsBytes 0x0000 (encode (.jnz 0x0010) ++ encode (.jnn 0x0010)) := by
  refine ⟨by decide, ?_⟩
  intro k h
  have hk : k < 6 := h
  match k, hk with
  | 0, _ => rfl
  | 1, _ => rfl
  | 2, _ => rfl
  | 3, _ => rfl
  | 4, _ => rfl
  | 5, _ => rfl

theorem witness_NotIdiomComplementsTop :
    exec (.pushimm 0x00) State.reset = .next ((State.reset.advance 2).push 0x00)
      ∧ exec .nor ((State.reset.advance 2).push 0x00)
        = .next (State.storeUnflagged (((State.reset.advance 2).push 0x00).advance 1) 0xFF)
      ∧ (0x0005 : Addr) ≠ State.reset.sp ∧ (0x0005 : Addr) ≠ State.reset.sp + 1 :=
  ⟨by rfl, by rfl, by decide, by decide⟩

/-- A popext onto each byte of the instruction after it (0x0003 to 0x0005) and onto each of its own (0x0000 to
0x0002). -/
theorem witness_StoreIsSeenByTheNextFetch : ∀ A ∈ ([0, 1, 2, 3, 4, 5] : List Byte),
    (launch [0x05, 0x00, A]).Running ∧ (launch [0x05, 0x00, A]).fetchInstr = .popext (A.setWidth 16)
      ∧ (0xFFFB : Addr) = (launch [0x05, 0x00, A]).sp + 1
      ∧ (0x00 : Byte) = (launch [0x05, 0x00, A]).read ((launch [0x05, 0x00, A]).sp + 1) := by decide

/-- The other forms: a push whose slot is the byte after it or its own opcode, and a nor over its own opcode. -/
theorem witness_StoreIsSeenByTheNextFetch_stack :
    ({ launch [0x02, 0x2A] with sp := 0x0002 } : State).Running ∧ ({ launch [0x02, 0x2A] with sp := 0x0002 } : State).fetchInstr = .pushimm 0x2A
      ∧ ({ launch [0x03, 0x00, 0x01] with sp := 0x0000 } : State).fetchInstr = .pushext 0x0001
      ∧ ({ launch [0x0A] with sp := 0xFFFE } : State).fetchInstr = .nor ∧ (0x0000 : Addr) = 0xFFFE + 2 := by decide

/-- P4's case, shortened: a popext into the operand byte `lo` of the pushext after it (0x0005), which then pushes
the byte at the patched address 0x0032 (P4's table[2], 0x33). -/
theorem test_store_into_next_operand :
    (after (after (place (place { launch [0x05, 0x00, 0x05, 0x03, 0x00, 0x00] with sp := 0xFFF9 } 0xFFFA [0x32])
      0x0032 [0x33]))).read 0xFFFA = 0x33 := by decide

theorem witness_StackAddressesWrap :
    ({ State.reset with sp := 0xFFFF } : State).sp = 0xFFFF ∧ ({ State.reset with sp := 0xFFFE } : State).sp = 0xFFFE := by
  decide

theorem witness_MemoryAccessLaws : (0x0001 : Addr) ≠ 0x0000 := by decide

/-- Two memories written in different orders. -/
theorem witness_CanonicalMemoryIsDeterminedByReads :
    Memory.wf (Memory.writeBytes [] 0x0010 [0x01, 0x02]) = true
      ∧ Memory.wf (((Memory.write [] 0x0011 0x02).write 0x0010 0x01)) = true
      ∧ ∀ a : Addr, (Memory.writeBytes [] 0x0010 [0x01, 0x02]).read a
        = ((Memory.write [] 0x0011 0x02).write 0x0010 0x01).read a := ⟨by decide, by decide, fun _ => rfl⟩

theorem witness_OnlyResetRestarts :
    ({ State.reset with halt := true } : State).stopped = true
      ∧ HostMove .run { State.reset with halt := true } { State.reset with halt := true }
      ∧ HostMove .reset { State.reset with halt := true } State.reset ∧ HostOp.run ≠ .reset ∧ HostOp.run ≠ .construct :=
  ⟨by decide, ⟨0, by rfl⟩, rfl, by decide, by decide⟩

theorem witness_HostWritesOnlyPortsAndImage :
    HostMove (.portWrite .d 0x64) State.reset (State.reset.portWrite .d 0x64)
      ∧ HostOp.portWrite .d 0x64 ≠ .construct ∧ HostOp.portWrite .d 0x64 ≠ .step ∧ HostOp.portWrite .d 0x64 ≠ .run
      ∧ HostOp.portWrite .d 0x64 ≠ .reset ∧ (State.reset.portWrite .d 0x64).read 0xFFFF ≠ State.reset.read 0xFFFF :=
  ⟨rfl, by decide, by decide, by decide, by decide, by decide⟩

theorem witness_LoadImageEffect :
    ([0x02, 0x2A] : List Byte).length ≤ 65536 ∧ (0x0001 : Addr).toNat < ([0x02, 0x2A] : List Byte).length
      ∧ ([0x02, 0x2A] : List Byte).length ≤ (0x0002 : Addr).toNat ∧ 65536 < (List.replicate 65537 (0x00 : Byte)).length :=
  ⟨by decide, by decide, by decide, by rw [List.length_replicate]; omega⟩

theorem witness_RunIsRepeatedSteps : RunEnds (launch [0x01]) (after (launch [0x01])) := ⟨1, by rfl⟩

theorem witness_EndOfRun :
    (launch [0x01]).Running ∧ RunEnds (launch [0x01]) (after (launch [0x01]))
      ∧ (launch [0x0B]).Running ∧ RunEnds (launch [0x0B]) (after (launch [0x0B])) :=
  ⟨by decide, ⟨1, by rfl⟩, by decide, ⟨1, by rfl⟩⟩

theorem witness_ZeroMemoryRunsForEver : State.reset.Running ∧ ∀ a, State.reset.read a = 0x00 := ⟨by decide, fun _ => rfl⟩

end Sys2Proof.Tests
end

/-! PROOFS. The addresses at the top of the stack and where they wrap (R7, R12, R30). -/

namespace Sys2Proof.Machine

theorem State.topAddr_toNat (s : State) : s.topAddr.toNat = (s.sp.toNat + 1) % 65536 :=
  BitVec.toNat_add s.sp 1

theorem State.secondAddr_toNat (s : State) : s.secondAddr.toNat = (s.sp.toNat + 2) % 65536 :=
  BitVec.toNat_add s.sp 2

theorem State.top_eq_read (s : State) : s.top = s.read (s.sp + 1) := rfl

theorem State.second_eq_read (s : State) : s.second = s.read (s.sp + 2) := rfl

/-- With `sp` at the last address both stack bytes have wrapped (R30). -/
theorem State.top_second_of_sp_FFFF (s : State) (hsp : s.sp = 0xFFFF) :
    s.top = s.read 0x0000 ∧ s.second = s.read 0x0001 := by
  have htop : (0xFFFF : Addr) + 1 = 0x0000 := by decide
  have hsecond : (0xFFFF : Addr) + 2 = 0x0001 := by decide
  rw [State.top_eq_read, State.second_eq_read, hsp, htop, hsecond]
  exact ⟨rfl, rfl⟩

/-- With `sp` one below the last address only the second has wrapped (R30). -/
theorem State.top_second_of_sp_FFFE (s : State) (hsp : s.sp = 0xFFFE) :
    s.top = s.read 0xFFFF ∧ s.second = s.read 0x0000 := by
  have htop : (0xFFFE : Addr) + 1 = 0xFFFF := by decide
  have hsecond : (0xFFFE : Addr) + 2 = 0x0000 := by decide
  rw [State.top_eq_read, State.second_eq_read, hsp, htop, hsecond]
  exact ⟨rfl, rfl⟩

/-- Settles O46: the two addresses as wrapped sums, and R30's two cases at the top of memory. -/
theorem stackAddressesWrap : Obligations.StackAddressesWrap := fun s =>
  ⟨s.topAddr_toNat, s.secondAddr_toNat, s.top_second_of_sp_FFFF, s.top_second_of_sp_FFFE⟩

end Sys2Proof.Machine

/-! PROOFS. What an instruction and a step do to each field of the state: `exec i` answers the state
`s.after i`, given field by field, so that `sp` and memory are seen to depend on `sp` and memory alone. -/

namespace Sys2Proof.Machine

/-- `pc` after an instruction, by the table of R11. -/
def State.pcAfter (s : State) : Instr → Addr
  | .pushimm _ => s.pc + 2
  | .pushext _ => s.pc + 3
  | .popext _ => s.pc + 3
  | .jnz addr => if s.psw = Config.pswZ then s.pc + 3 else addr
  | .jnn addr => if s.psw = Config.pswN then s.pc + 3 else addr
  | _ => s.pc + 1

/-- `sp` after an instruction, by the writers of R12. -/
def spAfter (sp : Addr) : Instr → Addr
  | .pushimm _ => sp - 1
  | .pushext _ => sp - 1
  | .popinh => sp + 1
  | .popext _ => sp + 1
  | .add => sp + 1
  | .sub => sp + 1
  | .nor => sp + 1
  | .nop => sp
  | .halt => sp
  | .jnz _ => sp
  | .jnn _ => sp
  | .invalid _ => sp

/-- Memory after an instruction, by the stores of R34. -/
def Memory.after (m : Memory) (sp : Addr) : Instr → Memory
  | .pushimm imm => m.write sp imm
  | .pushext addr => m.write sp (m.read addr)
  | .popext addr => m.write addr (m.read (sp + 1))
  | .add => m.storeResult Config.pswStoreLast (sp + 2) (m.read (sp + 2) + m.read (sp + 1))
  | .sub => m.storeResult Config.pswStoreLast (sp + 2) (m.read (sp + 1) - m.read (sp + 2))
  | .nor => m.write (sp + 2) (~~~(m.read (sp + 2) ||| m.read (sp + 1)))
  | _ => m

/-- The fault latch after an instruction (R13, R72). -/
def State.faultAfter (s : State) : Instr → Bool
  | .invalid _ => true
  | _ => s.fault

/-- The halt latch after an instruction (R14, R71). -/
def State.haltAfter (s : State) : Instr → Bool
  | .halt => true
  | _ => s.halt

/-- The state an instruction leaves. -/
def State.after (s : State) (i : Instr) : State :=
  { pc := s.pcAfter i, sp := spAfter s.sp i, fault := s.faultAfter i, halt := s.haltAfter i,
    mem := s.mem.after s.sp i }

@[simp] theorem State.after_pc (s : State) (i : Instr) : (s.after i).pc = s.pcAfter i := rfl
@[simp] theorem State.after_sp (s : State) (i : Instr) : (s.after i).sp = spAfter s.sp i := rfl
@[simp] theorem State.after_fault (s : State) (i : Instr) : (s.after i).fault = s.faultAfter i := rfl
@[simp] theorem State.after_halt (s : State) (i : Instr) : (s.after i).halt = s.haltAfter i := rfl
@[simp] theorem State.after_mem (s : State) (i : Instr) : (s.after i).mem = s.mem.after s.sp i := rfl
@[simp] theorem State.after_read (s : State) (i : Instr) (a : Addr) :
    (s.after i).read a = (s.mem.after s.sp i).read a := rfl

/-- `jnz` leaves the state `State.after` gives: the negated test of R90 becomes the two branches. -/
theorem State.jumpIf_jnzTaken (s : State) (addr : Addr) :
    s.jumpIf (jnzTaken s.psw) addr = s.after (.jnz addr) := by
  have hpc : (if jnzTaken s.psw = true then addr else s.pc + 3) = s.pcAfter (.jnz addr) := by
    simp [jnzTaken, State.pcAfter]
  rw [State.jumpIf_eq, hpc]
  rfl

/-- `jnn` leaves the state `State.after` gives: the negated test of R91 becomes the two branches. -/
theorem State.jumpIf_jnnTaken (s : State) (addr : Addr) :
    s.jumpIf (jnnTaken s.psw) addr = s.after (.jnn addr) := by
  have hpc : (if jnnTaken s.psw = true then addr else s.pc + 3) = s.pcAfter (.jnn addr) := by
    simp [jnnTaken, State.pcAfter]
  rw [State.jumpIf_eq, hpc]
  rfl

/-- All an instruction does. -/
theorem exec_eq_after (i : Instr) (s : State) : exec i s = .next (s.after i) := by
  cases i with
  | jnz addr => rw [exec_jnz, State.jumpIf_jnzTaken]
  | jnn addr => rw [exec_jnn, State.jumpIf_jnnTaken]
  | _ => rfl

theorem eq_after_of_exec {i : Instr} {s t : State} (h : exec i s = .next t) : t = s.after i := by
  rw [exec_eq_after] at h
  exact (Host.Outcome.next.inj h).symm

/-- All a step does (R65). -/
theorem step_eq (s : State) : step s = .next (if s.stopped then s else s.after s.fetchInstr) := by
  cases hs : s.stopped with
  | true => simpa using step_of_stopped hs
  | false => simpa [exec_eq_after] using step_of_running hs

/-- The two ways a step can go: a stopped core stays as it is, a running one runs one instruction (R65). -/
theorem step_cases {s t : State} (h : step s = .next t) :
    s.stopped = true ∧ t = s ∨ s.Running ∧ t = s.after s.fetchInstr := by
  cases hs : s.stopped with
  | true => exact .inl ⟨rfl, (Host.Outcome.next.inj ((step_of_stopped hs).symm.trans h)).symm⟩
  | false => exact .inr ⟨s.not_stopped_iff.1 hs, eq_after_of_exec ((step_of_running hs).symm.trans h)⟩

theorem eq_after_of_step {s t : State} (hrun : s.Running) (h : step s = .next t) :
    t = s.after s.fetchInstr :=
  eq_after_of_exec ((step_of_running (s.not_stopped_iff.2 hrun)).symm.trans h)

end Sys2Proof.Machine

/-! PROOFS. The invariant: an instruction keeps memory canonical and sets at most one latch (R16, R17). -/

namespace Sys2Proof.Machine

theorem Memory.wf_after {m : Memory} (sp : Addr) (i : Instr) (h : m.wf = true) : (m.after sp i).wf = true := by
  cases i with
  | pushimm imm => exact Memory.wf_write _ _ h
  | pushext addr => exact Memory.wf_write _ _ h
  | popext addr => exact Memory.wf_write _ _ h
  | nor => exact Memory.wf_write _ _ h
  | add => exact Memory.wf_storeResult _ _ _ h
  | sub => exact Memory.wf_storeResult _ _ _ h
  | _ => exact h

theorem State.haltAfter_or_faultAfter_kept (s : State) (i : Instr) :
    s.haltAfter i = s.halt ∨ s.faultAfter i = s.fault := by
  cases i with
  | halt => exact .inr rfl
  | _ => exact .inl rfl

/-- One instruction run from Running cannot set both latches. -/
theorem State.Running.not_both_latches_after {s : State} (hrun : s.Running) (i : Instr) :
    ¬((s.after i).Halted ∧ (s.after i).Faulted) := by
  obtain ⟨hfault, hhalt⟩ := hrun
  rintro ⟨hhalted, hfaulted⟩
  rcases s.haltAfter_or_faultAfter_kept i with hkept | hkept
  · exact Bool.false_ne_true (hhalt.symm.trans (hkept.symm.trans hhalted))
  · exact Bool.false_ne_true (hfault.symm.trans (hkept.symm.trans hfaulted))

/-- Settles O16: a stopped core stays as it is, and one instruction from Running keeps both halves. -/
theorem stepKeepsInvariant : Obligations.StepKeepsInvariant := by
  intro s t hinv hstep
  rcases step_cases hstep with ⟨_, rfl⟩ | ⟨hrun, rfl⟩
  · exact hinv
  · exact ⟨Memory.wf_after s.sp _ hinv.1, hrun.not_both_latches_after _⟩

end Sys2Proof.Machine

/-! PROOFS. `pc` and `sp` after one step, by the opcode byte (R11, R12). -/

namespace Sys2Proof.Machine

theorem ne_of_invalid_opcode {op : Byte} (h : 11 ≤ op.toNat) (k : Byte) (hk : k.toNat < 11) : op ≠ k := by
  rintro rfl
  omega

/-- R11's table over the opcode map of R56. -/
theorem State.pcAfter_decodeWindow (s : State) (op b1 b2 : Byte) :
    s.pcAfter (decodeWindow op b1 b2) =
      if op = 0x02 then s.pc + 2
      else if op = 0x03 ∨ op = 0x05 then s.pc + 3
      else if op = 0x06 then if s.psw = Config.pswZ then s.pc + 3 else extAddr b1 b2
      else if op = 0x07 then if s.psw = Config.pswN then s.pc + 3 else extAddr b1 b2
      else s.pc + 1 := by
  rcases opcode_cases op with
    (rfl | rfl | rfl | rfl | rfl | rfl | rfl | rfl | rfl | rfl | rfl) | hinvalid
  case inr => simp [decodeWindow_invalid hinvalid, State.pcAfter, ne_of_invalid_opcode hinvalid]
  all_goals rfl

/-- R12's writers over the opcode map of R56. -/
theorem spAfter_decodeWindow (sp : Addr) (op b1 b2 : Byte) :
    spAfter sp (decodeWindow op b1 b2) =
      if op = 0x02 ∨ op = 0x03 then sp - 1
      else if op = 0x04 ∨ op = 0x05 ∨ op = 0x08 ∨ op = 0x09 ∨ op = 0x0A then sp + 1
      else sp := by
  rcases opcode_cases op with
    (rfl | rfl | rfl | rfl | rfl | rfl | rfl | rfl | rfl | rfl | rfl) | hinvalid
  case inr => simp [decodeWindow_invalid hinvalid, spAfter, ne_of_invalid_opcode hinvalid]
  all_goals rfl

/-- Settles O10: the fetched instruction is the opcode map's on the three bytes at `pc`. -/
theorem pcAfterStep : Obligations.PcAfterStep := by
  rintro s _ _ _ rfl rfl rfl
  refine ⟨_, step_eq s, ?_⟩
  cases s.stopped with
  | true => rfl
  | false => exact (congrArg s.pcAfter s.fetchInstr_eq).trans (s.pcAfter_decodeWindow _ _ _)

/-- Settles O11: likewise for `sp`. -/
theorem spAfterStep : Obligations.SpAfterStep := by
  rintro s _ rfl
  refine ⟨_, step_eq s, ?_⟩
  cases s.stopped with
  | true => rfl
  | false => exact (congrArg (spAfter s.sp) s.fetchInstr_eq).trans (spAfter_decodeWindow _ _ _ _)

/-- Settles O41: both are given by `spAfter` and `Memory.after`, which see neither `pc` nor a latch. -/
theorem pcAndLatchesAreNotData : Obligations.PcAndLatchesAreNotData := by
  intro i s₁ s₂ t₁ t₂ hsp hmem h₁ h₂
  rw [eq_after_of_exec h₁, eq_after_of_exec h₂]
  exact ⟨by simp [hsp], by simp [hsp, hmem]⟩

end Sys2Proof.Machine

/-! PROOFS. What an instruction and a step store, and that every other byte reads as before (R19, R34, R37). -/

namespace Sys2Proof.Machine

section StoreAddrs
variable {s : State} {a : Addr}

theorem mem_storeAddrs_pushimm {imm : Byte} : a ∈ storeAddrs (.pushimm imm) s ↔ a = s.sp := List.mem_singleton
theorem mem_storeAddrs_pushext {addr : Addr} : a ∈ storeAddrs (.pushext addr) s ↔ a = s.sp := List.mem_singleton
theorem mem_storeAddrs_popext {addr : Addr} : a ∈ storeAddrs (.popext addr) s ↔ a = addr := List.mem_singleton
theorem mem_storeAddrs_nor : a ∈ storeAddrs .nor s ↔ a = s.sp + 2 := List.mem_singleton
theorem mem_storeAddrs_add : a ∈ storeAddrs .add s ↔ a = s.sp + 2 ∨ a = Config.pswAddr := List.mem_pair
theorem mem_storeAddrs_sub : a ∈ storeAddrs .sub s ↔ a = s.sp + 2 ∨ a = Config.pswAddr := List.mem_pair

end StoreAddrs

/-- add and sub leave every cell but their two as it was. -/
theorem Memory.read_storeResult_other (m : Memory) {a b : Addr} (r : Byte) (hres : b ≠ a)
    (hpsw : b ≠ Config.pswAddr) : (m.storeResult Config.pswStoreLast a r).read b = m.read b := by
  rw [Config.pswStoreLast, Memory.read_storeResult_last, if_neg hpsw, if_neg hres]

/-- The frame of an instruction. -/
theorem State.read_after_of_not_stored {s : State} {i : Instr} {a : Addr} (h : a ∉ storeAddrs i s) :
    (s.after i).read a = s.read a := by
  cases i with
  | pushimm imm => exact Memory.read_write_other _ _ (mt mem_storeAddrs_pushimm.2 h)
  | pushext addr => exact Memory.read_write_other _ _ (mt mem_storeAddrs_pushext.2 h)
  | popext addr => exact Memory.read_write_other _ _ (mt mem_storeAddrs_popext.2 h)
  | nor => exact Memory.read_write_other _ _ (mt mem_storeAddrs_nor.2 h)
  | add =>
    obtain ⟨hresult, hpsw⟩ := not_or.1 (mt mem_storeAddrs_add.2 h)
    exact Memory.read_storeResult_other _ _ hresult hpsw
  | sub =>
    obtain ⟨hresult, hpsw⟩ := not_or.1 (mt mem_storeAddrs_sub.2 h)
    exact Memory.read_storeResult_other _ _ hresult hpsw
  | _ => rfl

/-- A fetch is no store, so what a running step stores is what its instruction stores. -/
theorem State.stepStores_of_running {s : State} (hrun : s.Running) :
    s.stepStores = storeAddrs s.fetchInstr s := by
  have hfetch : (s.fetches s.fetchInstr.length).filterMap Access.writeAddr = [] := by
    simp [State.fetches, List.filterMap_map, Function.comp_def, Access.writeAddr]
  simp [State.stepStores, State.stepAccesses, s.not_stopped_iff.2 hrun, List.filterMap_append, hfetch,
    storeAddrs]

/-- The frame of a step. -/
theorem read_of_step_of_not_stored {s t : State} {a : Addr} (hstep : step s = .next t)
    (ha : a ∉ s.stepStores) : t.read a = s.read a := by
  rcases step_cases hstep with ⟨_, rfl⟩ | ⟨hrun, rfl⟩
  · rfl
  · exact State.read_after_of_not_stored (s.stepStores_of_running hrun ▸ ha)

/-- Settles O40: by induction on the number of steps, each of which has the frame. -/
theorem cellKeptUntilStored : Obligations.CellKeptUntilStored := by
  intro n
  induction n with
  | zero =>
    intro s t a hsteps _
    cases hsteps
    rfl
  | succ n ih =>
    intro s t a hsteps hkept
    obtain ⟨u, hstep⟩ : ∃ u, step s = .next u := ⟨_, step_eq s⟩
    have hfirst : u.read a = s.read a :=
      read_of_step_of_not_stored hstep (hkept 0 n.succ_pos s (steps_zero s))
    have hrest : t.read a = u.read a := by
      refine ih u t a (steps_succ n hstep ▸ hsteps) fun k hk w hw => ?_
      exact hkept (k + 1) (Nat.succ_lt_succ hk) w ((steps_succ k hstep).trans hw)
    exact hrest.trans hfirst

end Sys2Proof.Machine

/-! PROOFS. The PSW cell: what add and sub leave in it, and which instructions can change it (R18, R96). -/

namespace Sys2Proof.Machine

theorem pswEncoding_pswOf (r : Byte) : PswEncoding (pswOf r) := by
  unfold pswOf
  split
  · exact .inr (.inl rfl)
  · split
    · exact .inl rfl
    · exact .inr (.inr rfl)

/-- The PSW is stored last, so it is an encoding wherever the result lands (R101, D5). -/
theorem Memory.pswEncoding_storeResult (m : Memory) (a : Addr) (r : Byte) :
    PswEncoding ((m.storeResult Config.pswStoreLast a r).read Config.pswAddr) := by
  rw [Config.pswStoreLast, Memory.read_storeResult_last, if_pos rfl]
  exact pswEncoding_pswOf r

theorem State.pswEncoding_after_add_sub {s : State} {i : Instr} (hi : i = .add ∨ i = .sub) :
    PswEncoding ((s.after i).read Config.pswAddr) := by
  rcases hi with rfl | rfl
  · exact Memory.pswEncoding_storeResult _ _ _
  · exact Memory.pswEncoding_storeResult _ _ _

/-- Settles O19: add and sub write an encoding, and a step that stores elsewhere keeps the byte. -/
theorem pswEncodingKept : Obligations.PswEncodingKept := by
  intro s t hrun hstep
  constructor
  · intro hi
    rw [eq_after_of_step hrun hstep]
    exact State.pswEncoding_after_add_sub hi
  · intro hstored hpsw
    rwa [read_of_step_of_not_stored hstep hstored]

/-- The address of second is the PSW cell only with `sp` two below it. -/
theorem sp_of_second_at_psw {sp : Addr} (h : Config.pswAddr = sp + 2) : sp = 0xFFF9 := by
  simp only [Config.pswAddr] at h
  bv_omega

/-- The instructions that store to the PSW cell. -/
theorem writer_of_psw {i : Instr} {s : State} (h : Config.pswAddr ∈ storeAddrs i s) :
    i = .add ∨ i = .sub
      ∨ ((∃ v, i = .pushimm v) ∨ ∃ A, i = .pushext A) ∧ s.sp = Config.pswAddr
      ∨ i = .popext Config.pswAddr
      ∨ i = .nor ∧ s.sp = 0xFFF9 := by
  cases i with
  | add => exact .inl rfl
  | sub => exact .inr (.inl rfl)
  | pushimm v => exact .inr (.inr (.inl ⟨.inl ⟨v, rfl⟩, (mem_storeAddrs_pushimm.1 h).symm⟩))
  | pushext A => exact .inr (.inr (.inl ⟨.inr ⟨A, rfl⟩, (mem_storeAddrs_pushext.1 h).symm⟩))
  | popext A => exact .inr (.inr (.inr (.inl (congrArg _ (mem_storeAddrs_popext.1 h).symm))))
  | nor => exact .inr (.inr (.inr (.inr ⟨rfl, sp_of_second_at_psw (mem_storeAddrs_nor.1 h)⟩)))
  | _ => exact absurd h List.not_mem_nil

/-- Settles O35: a changed cell is a stored one. -/
theorem writersOfThePsw : Obligations.WritersOfThePsw := by
  intro s t hrun hstep hchanged
  have hstored : Config.pswAddr ∈ s.stepStores := by
    by_contra hnot
    exact hchanged (read_of_step_of_not_stored hstep hnot)
  exact writer_of_psw (s.stepStores_of_running hrun ▸ hstored)

end Sys2Proof.Machine

/-! PROOFS. A pushed byte is popped again (R12, R80, R83). -/

namespace Sys2Proof.Machine

/-- Settles O42: the push leaves `sp` one below the byte it stored, so the pop reads that byte. -/
theorem pushThenPopRestores : Obligations.PushThenPopRestores := by
  intro v A s t u hpush hpop
  obtain rfl := eq_after_of_exec hpush
  obtain rfl := eq_after_of_exec hpop
  have hsp : (s.after (.pushimm v)).sp + 1 = s.sp := BitVec.sub_add_cancel s.sp 1
  have htop : (s.after (.pushimm v)).read ((s.after (.pushimm v)).sp + 1) = v := by
    rw [hsp]
    exact Memory.read_write_same _ _ _
  refine ⟨htop, (Memory.read_write_same _ _ _).trans htop, hsp, fun a hA ha => ?_⟩
  rw [State.read_after_of_not_stored (mt mem_storeAddrs_popext.1 hA),
    State.read_after_of_not_stored (mt mem_storeAddrs_pushimm.1 ha)]

end Sys2Proof.Machine

/-! PROOFS. Memory in canonical form is determined by what it reads as (R17, log entry 10). -/

namespace Sys2Proof.Machine

/-- The canonical form of a nonempty list, taken apart. -/
theorem Memory.wfFrom_cons {lo a : Nat} {v : Byte} {rest : Memory} :
    Memory.wfFrom lo ((a, v) :: rest) = true
      ↔ lo ≤ a ∧ a < Config.memSize ∧ v ≠ Memory.unlisted ∧ rest.wfFrom (a + 1) = true := by
  simp only [Memory.wfFrom, Bool.and_eq_true, decide_eq_true_eq, and_assoc]

/-- Below its first address a canonical memory reads as unlisted. -/
theorem Memory.get_of_lt_of_wfFrom {m : Memory} {lo a : Nat} (hwf : m.wfFrom lo = true) (ha : a < lo) :
    m.get a = Memory.unlisted := by
  induction m generalizing lo with
  | nil => rfl
  | cons cell rest ih =>
    obtain ⟨k, v⟩ := cell
    obtain ⟨hlo, _, _, hrest⟩ := Memory.wfFrom_cons.1 hwf
    rw [Memory.get, if_neg (by omega), ih hrest (by omega)]

/-- A canonical memory lists nothing below the first address of another that reads alike. -/
theorem Memory.first_listed_le {k₁ k₂ lo : Nat} {v₁ v₂ : Byte} {m₁ m₂ : Memory}
    (hwf₁ : Memory.wfFrom lo ((k₁, v₁) :: m₁) = true) (hwf₂ : Memory.wfFrom lo ((k₂, v₂) :: m₂) = true)
    (hget : ∀ a < Config.memSize, Memory.get ((k₁, v₁) :: m₁) a = Memory.get ((k₂, v₂) :: m₂) a) :
    k₂ ≤ k₁ := by
  by_contra hlt
  obtain ⟨_, hsize, hlisted, _⟩ := Memory.wfFrom_cons.1 hwf₁
  obtain ⟨_, hsize₂, hlisted₂, hrest₂⟩ := Memory.wfFrom_cons.1 hwf₂
  have hbelow : Memory.get ((k₂, v₂) :: m₂) k₁ = Memory.unlisted :=
    Memory.get_of_lt_of_wfFrom (Memory.wfFrom_cons.2 ⟨le_refl k₂, hsize₂, hlisted₂, hrest₂⟩) (by omega)
  have hfirst : Memory.get ((k₁, v₁) :: m₁) k₁ = v₁ := if_pos rfl
  exact hlisted (by rw [← hfirst, hget k₁ hsize, hbelow])

/-- A canonical memory with a cell does not read as the empty one. -/
theorem Memory.exists_get_ne_unlisted {k lo : Nat} {v : Byte} {m : Memory}
    (hwf : Memory.wfFrom lo ((k, v) :: m) = true) :
    ∃ a < Config.memSize, Memory.get ((k, v) :: m) a ≠ Memory.unlisted := by
  obtain ⟨_, hsize, hlisted, _⟩ := Memory.wfFrom_cons.1 hwf
  refine ⟨k, hsize, ?_⟩
  rwa [Memory.get, if_pos rfl]

theorem Memory.eq_of_get_eq {m₁ m₂ : Memory} {lo : Nat} (hwf₁ : m₁.wfFrom lo = true)
    (hwf₂ : m₂.wfFrom lo = true) (hget : ∀ a < Config.memSize, m₁.get a = m₂.get a) : m₁ = m₂ := by
  induction m₁ generalizing m₂ lo with
  | nil =>
    cases m₂ with
    | nil => rfl
    | cons cell₂ rest₂ =>
      obtain ⟨a, ha, hlisted⟩ := Memory.exists_get_ne_unlisted hwf₂
      exact absurd (hget a ha).symm hlisted
  | cons cell₁ rest₁ ih =>
    cases m₂ with
    | nil =>
      obtain ⟨a, ha, hlisted⟩ := Memory.exists_get_ne_unlisted hwf₁
      exact absurd (hget a ha) hlisted
    | cons cell₂ rest₂ =>
      obtain ⟨k₁, v₁⟩ := cell₁
      obtain ⟨k₂, v₂⟩ := cell₂
      obtain rfl : k₁ = k₂ := Nat.le_antisymm
        (Memory.first_listed_le hwf₂ hwf₁ fun a ha => (hget a ha).symm) (Memory.first_listed_le hwf₁ hwf₂ hget)
      obtain ⟨_, hsize, _, hrest₁⟩ := Memory.wfFrom_cons.1 hwf₁
      obtain ⟨_, _, _, hrest₂⟩ := Memory.wfFrom_cons.1 hwf₂
      obtain rfl : v₁ = v₂ := by simpa [Memory.get] using hget k₁ hsize
      have hrest : rest₁ = rest₂ := by
        refine ih hrest₁ hrest₂ fun a ha => ?_
        by_cases hak : k₁ = a
        · subst hak
          rw [Memory.get_of_lt_of_wfFrom hrest₁ (Nat.lt_succ_self k₁),
            Memory.get_of_lt_of_wfFrom hrest₂ (Nat.lt_succ_self k₁)]
        · simpa [Memory.get, hak] using hget a ha
      rw [hrest]

/-- Settles O48: the reads give every cell of the 65536, and those determine the list. -/
theorem canonicalMemoryIsDeterminedByReads : Obligations.CanonicalMemoryIsDeterminedByReads := by
  intro m₁ m₂ hwf₁ hwf₂ hread
  refine Memory.eq_of_get_eq hwf₁ hwf₂ fun a ha => ?_
  have haddr : (BitVec.ofNat 16 a).toNat = a := Nat.mod_eq_of_lt ha
  simpa only [Memory.read, haddr] using hread (BitVec.ofNat 16 a)

end Sys2Proof.Machine

/-! PROOFS. Construction, Reset and the other operations of the host (R22, R24, R119, R131, R136, R145). -/

namespace Sys2Proof.Machine

@[simp] theorem State.hostReset_pc (s : State) : s.hostReset.pc = Config.pcReset := rfl
@[simp] theorem State.hostReset_sp (s : State) : s.hostReset.sp = Config.spReset := rfl
@[simp] theorem State.hostReset_fault (s : State) : s.hostReset.fault = false := rfl
@[simp] theorem State.hostReset_halt (s : State) : s.hostReset.halt = false := rfl
@[simp] theorem State.hostReset_mem (s : State) : s.hostReset.mem = s.mem := rfl
@[simp] theorem State.hostReset_read (s : State) (a : Addr) : s.hostReset.read a = s.read a := rfl

/-- A Running state with canonical memory meets the invariant. -/
theorem State.inv_of_running {s : State} (hrun : s.Running) (hwf : s.mem.wf = true) : s.Inv :=
  ⟨hwf, fun hboth => Bool.false_ne_true (hrun.1.symm.trans hboth.2)⟩

theorem State.inv_construction : State.construction.Inv := State.inv_of_running ⟨rfl, rfl⟩ rfl

theorem State.inv_hostReset {s : State} (hwf : s.mem.wf = true) : s.hostReset.Inv :=
  State.inv_of_running ⟨rfl, rfl⟩ hwf

/-- Settles O17: reset is Reset of construction, and both are Running with empty memory. -/
theorem resetMeetsInvariant : Obligations.ResetMeetsInvariant :=
  ⟨State.inv_of_running ⟨rfl, rfl⟩ State.reset_mem_wf, State.inv_construction, rfl⟩

/-- Settles O50: the fields of construction and of Reset, one by one. -/
theorem constructionAndReset : Obligations.ConstructionAndReset :=
  ⟨⟨rfl, rfl, ⟨rfl, rfl⟩, fun _ => rfl⟩, fun s =>
    ⟨s.hostReset_pc, s.hostReset_sp, s.hostReset_fault, s.hostReset_halt,
      ⟨s.hostReset_fault, s.hostReset_halt⟩, s.hostReset_read, rfl⟩⟩

/-- What every step keeps, a Run that ends has kept (R69). -/
theorem runFor_keeps {P : State → Prop} (hkeeps : ∀ s t, P s → step s = .next t → P t) {fuel : Nat}
    {s t : State} (hs : P s) (hrun : runFor fuel s = some t) : P t := by
  induction fuel generalizing s with
  | zero =>
    simp only [runFor, Option.ite_none_right_eq_some, Option.some.injEq] at hrun
    exact hrun.2 ▸ hs
  | succ fuel ih =>
    rw [runFor] at hrun
    split at hrun
    · exact Option.some.inj hrun ▸ hs
    · split at hrun
      · next u hstep => exact ih (hkeeps s u hs hstep) hrun
      · cases hrun
      · cases hrun

/-- An accepted LoadImage writes the image from address 0x0000 up and nothing else (R136). -/
theorem State.eq_of_loadImage {s t : State} {image : List Byte} (h : s.loadImage image = .next t) :
    t = s.setMem (s.mem.writeBytes 0x0000 image) := by
  unfold State.loadImage at h
  split at h
  · exact (Host.Outcome.next.inj h).symm
  · cases h

/-- Settles O18: by the rows of R145's table; Run keeps what every step keeps. -/
theorem hostMovesKeepInvariant : Obligations.HostMovesKeepInvariant := by
  intro op s t hinv hmove
  cases op with
  | construct => obtain rfl := hmove; exact State.inv_construction
  | reset => obtain rfl := hmove; exact State.inv_hostReset hinv.1
  | step => exact stepKeepsInvariant s t hinv hmove
  | run =>
    obtain ⟨fuel, hrun⟩ := hmove
    exact runFor_keeps stepKeepsInvariant hinv hrun
  | portWrite p v => obtain rfl := hmove; exact ⟨Memory.wf_write _ _ hinv.1, hinv.2⟩
  | loadImage image =>
    obtain rfl := State.eq_of_loadImage hmove
    exact ⟨Memory.wf_writeBytes _ _ hinv.1, hinv.2⟩
  | portRead p => obtain rfl := hmove; exact hinv
  | getPsw => obtain rfl := hmove; exact hinv
  | readStatus => obtain rfl := hmove; exact hinv

/-- Consecutive stores leave a byte outside their addresses as it was. -/
theorem Memory.read_writeBytes_other {m : Memory} {a b : Addr} {bs : List Byte}
    (h : ∀ k < bs.length, b ≠ a + BitVec.ofNat 16 k) : (m.writeBytes a bs).read b = m.read b := by
  induction bs generalizing m a with
  | nil => rfl
  | cons v rest ih =>
    have hfirst : b ≠ a := by simpa using h 0 (Nat.succ_pos _)
    have hrest : ∀ k < rest.length, b ≠ a + 1 + BitVec.ofNat 16 k := by
      intro k hk
      have hnext : a + 1 + BitVec.ofNat 16 k = a + BitVec.ofNat 16 (k + 1) := by
        rw [BitVec.ofNat_add, BitVec.add_assoc, BitVec.add_comm 1]
        rfl
      exact hnext ▸ h (k + 1) (Nat.succ_lt_succ hk)
    rw [Memory.writeBytes, ih hrest, Memory.read_write_other _ _ hfirst]

/-- LoadImage leaves the bytes past the image as they were (R136). -/
theorem Memory.read_writeBytes_past_image {m : Memory} {b : Addr} {image : List Byte}
    (h : image.length ≤ b.toNat) : (m.writeBytes 0x0000 image).read b = m.read b := by
  refine Memory.read_writeBytes_other fun k hk hb => ?_
  have hmod : b.toNat = k % 65536 := by simp [hb]
  omega

/-- Settles O52: by the rows of R145's table. -/
theorem hostWritesOnlyPortsAndImage : Obligations.HostWritesOnlyPortsAndImage := by
  intro op s t hmove hconstruct hstep hrun
  cases op with
  | construct => exact absurd rfl hconstruct
  | step => exact absurd rfl hstep
  | run => exact absurd rfl hrun
  | reset => obtain rfl := hmove; exact ⟨fun hreset => absurd rfl hreset, fun a ha => absurd rfl ha⟩
  | portWrite p v =>
    obtain rfl := hmove
    refine ⟨fun _ => rfl, fun a ha => .inl ⟨p, v, rfl, ?_⟩⟩
    by_contra hne
    exact ha (Memory.read_write_other _ _ hne)
  | loadImage image =>
    obtain rfl := State.eq_of_loadImage hmove
    refine ⟨fun _ => rfl, fun a ha => .inr ⟨image, rfl, ?_⟩⟩
    by_contra hpast
    exact ha (Memory.read_writeBytes_past_image (Nat.le_of_not_lt hpast))
  | portRead p => obtain rfl := hmove; exact ⟨fun _ => rfl, fun a ha => absurd rfl ha⟩
  | getPsw => obtain rfl := hmove; exact ⟨fun _ => rfl, fun a ha => absurd rfl ha⟩
  | readStatus => obtain rfl := hmove; exact ⟨fun _ => rfl, fun a ha => absurd rfl ha⟩

theorem portAddr_inj (p q : Port) : portAddr p = portAddr q ↔ p = q := by
  cases p <;> cases q <;> decide

theorem pswAddr_ne_portAddr (p : Port) : Config.pswAddr ≠ portAddr p := by
  cases p <;> decide

/-- A port is the cell at its address (R19). -/
theorem State.portRead_portWrite (s : State) (p q : Port) (v : Byte) :
    (s.portWrite p v).portRead q = if q = p then v else s.portRead q := by
  simp only [State.portRead, State.portWrite, State.read_write, portAddr_inj]

/-- A port write misses the PSW cell (R119). -/
theorem State.getPsw_portWrite (s : State) (p : Port) (v : Byte) : (s.portWrite p v).getPsw = s.getPsw :=
  Memory.read_write_other _ _ (pswAddr_ne_portAddr p)

/-- Settles O54: a port write is a store at the port's address, which popext and pushext reach too. -/
theorem portsArePlainCells : Obligations.PortsArePlainCells := by
  intro s p q v
  refine ⟨s.portRead_portWrite p q v, s.getPsw_portWrite p v, rfl, ?_, ?_⟩
  · exact ⟨_, exec_eq_after _ _, Memory.read_write_same _ _ _⟩
  · exact ⟨_, exec_eq_after _ _, (Memory.read_write_same _ _ _).trans (Memory.read_write_same _ _ _)⟩

end Sys2Proof.Machine

/-! PROOFS. Stores and reads of memory (R31, R37, R39). -/

namespace Sys2Proof.Machine

/-- Settles O47: what a store does to what memory reads as; `status` sees no memory. -/
theorem memoryAccessLaws : Obligations.MemoryAccessLaws := fun s a v =>
  ⟨Memory.read_write_same s.mem a v, fun _ hb => Memory.read_write_other s.mem v hb, rfl⟩

/-- Settles O49: by induction on the list from its most recent store, which the read sees or looks past. -/
theorem readReturnsMostRecentStore : Obligations.ReadReturnsMostRecentStore := by
  intro ws m a
  induction ws using List.reverseRecOn with
  | nil => rfl
  | append_singleton ws w ih =>
    rw [List.foldl_concat, List.reverse_concat, Memory.read_write, ih]
    by_cases hw : w.1 = a
    · simp [hw]
    · simp [hw, Ne.symm hw]

end Sys2Proof.Machine

/-! PROOFS. The frame of each instruction: its latches, its stack pointer and the bytes it does not store (R34). -/

namespace Sys2Proof.Machine

theorem State.faultAfter_of_defined (s : State) {i : Instr} (h : ∀ op, i ≠ .invalid op) :
    s.faultAfter i = s.fault := by
  cases i with
  | invalid op => exact absurd rfl (h op)
  | _ => rfl

theorem State.haltAfter_of_ne_halt (s : State) {i : Instr} (h : i ≠ .halt) : s.haltAfter i = s.halt := by
  cases i with
  | halt => exact absurd rfl h
  | _ => rfl

/-- An instruction that stores nothing moves `sp` only when it is popinh (R12, R34). -/
theorem spAfter_of_storeAddrs_eq_nil {i : Instr} {s : State} (hstores : storeAddrs i s = [])
    (hpop : i ≠ .popinh) : spAfter s.sp i = s.sp := by
  cases i with
  | popinh => exact absurd rfl hpop
  | nop | halt | jnz | jnn | invalid => rfl
  | pushimm | pushext | popext | add | sub | nor => cases hstores

/-- Settles O38: none of the six has a store in the table of R34. -/
theorem frameOfNonStoringInstructions : Obligations.FrameOfNonStoringInstructions := by
  intro i s t hi hexec
  obtain rfl := eq_after_of_exec hexec
  have hstores : storeAddrs i s = [] := by
    rcases hi with rfl | rfl | rfl | ⟨_, rfl⟩ | ⟨_, rfl⟩ | ⟨_, rfl⟩ <;> rfl
  refine ⟨fun a => State.read_after_of_not_stored ?_, spAfter_of_storeAddrs_eq_nil hstores,
    s.haltAfter_of_ne_halt, s.faultAfter_of_defined⟩
  rw [hstores]
  exact List.not_mem_nil

/-- Settles O39: by the frame of an instruction, with the stores of each form. -/
theorem frameOfStoringInstructions : Obligations.FrameOfStoringInstructions := by
  intro i s t hexec
  obtain rfl := eq_after_of_exec hexec
  refine ⟨?push, ?popext, ?nor, ?alu⟩
  case push =>
    rintro (⟨v, rfl⟩ | ⟨A, rfl⟩)
    · exact ⟨rfl, rfl, fun a ha => State.read_after_of_not_stored (mt mem_storeAddrs_pushimm.1 ha)⟩
    · exact ⟨rfl, rfl, fun a ha => State.read_after_of_not_stored (mt mem_storeAddrs_pushext.1 ha)⟩
  case popext =>
    rintro A rfl
    exact ⟨rfl, rfl, fun a ha => State.read_after_of_not_stored (mt mem_storeAddrs_popext.1 ha)⟩
  case nor =>
    rintro rfl
    exact ⟨rfl, rfl, fun a ha => State.read_after_of_not_stored (mt mem_storeAddrs_nor.1 ha)⟩
  case alu =>
    rintro (rfl | rfl)
    · exact ⟨rfl, rfl, fun a hresult hpsw =>
        State.read_after_of_not_stored (mt mem_storeAddrs_add.1 (not_or.2 ⟨hresult, hpsw⟩))⟩
    · exact ⟨rfl, rfl, fun a hresult hpsw =>
        State.read_after_of_not_stored (mt mem_storeAddrs_sub.1 (not_or.2 ⟨hresult, hpsw⟩))⟩

end Sys2Proof.Machine

/-! PROOFS. What a step fetches: an encoding stored at `pc` (R33, R50), and a byte just stored (R42). -/

namespace Sys2Proof.Machine

section HoldsBytes
variable {s : State} {op b1 b2 : Byte}

/-- An F0 encoding at `pc` fixes the opcode byte alone (R51). -/
theorem State.fetchInstr_of_holdsBytes_f0 (h : s.HoldsBytes s.pc [op]) :
    s.fetchInstr = decodeWindow op (s.streamByte 1) (s.streamByte 2) := by
  have h0 : s.streamByte 0 = op := h 0 (by simp)
  rw [State.fetchInstr, h0]

/-- An F1 encoding at `pc` fixes two bytes (R52). -/
theorem State.fetchInstr_of_holdsBytes_f1 (h : s.HoldsBytes s.pc [op, b1]) :
    s.fetchInstr = decodeWindow op b1 (s.streamByte 2) := by
  have h0 : s.streamByte 0 = op := h 0 (by simp)
  have h1 : s.streamByte 1 = b1 := h 1 (by simp)
  rw [State.fetchInstr, h0, h1]

/-- An F2 encoding at `pc` fixes all three bytes (R53). -/
theorem State.fetchInstr_of_holdsBytes_f2 (h : s.HoldsBytes s.pc [op, b1, b2]) :
    s.fetchInstr = decodeWindow op b1 b2 := by
  have h0 : s.streamByte 0 = op := h 0 (by simp)
  have h1 : s.streamByte 1 = b1 := h 1 (by simp)
  have h2 : s.streamByte 2 = b2 := h 2 (by simp)
  rw [State.fetchInstr, h0, h1, h2]

end HoldsBytes

/-- The instruction whose encoding stands at `pc` is the one fetched. -/
theorem State.fetchInstr_of_holdsBytes_encode {s : State} {i : Instr} (hwf : i.wf = true)
    (h : s.HoldsBytes s.pc (encode i)) : s.fetchInstr = i := by
  cases i with
  | pushimm imm => exact State.fetchInstr_of_holdsBytes_f1 h
  | pushext addr => exact (State.fetchInstr_of_holdsBytes_f2 h).trans (congrArg _ (extAddr_addrHi_addrLo addr))
  | popext addr => exact (State.fetchInstr_of_holdsBytes_f2 h).trans (congrArg _ (extAddr_addrHi_addrLo addr))
  | jnz addr => exact (State.fetchInstr_of_holdsBytes_f2 h).trans (congrArg _ (extAddr_addrHi_addrLo addr))
  | jnn addr => exact (State.fetchInstr_of_holdsBytes_f2 h).trans (congrArg _ (extAddr_addrHi_addrLo addr))
  | invalid op =>
    exact (State.fetchInstr_of_holdsBytes_f0 h).trans (decodeWindow_invalid (of_decide_eq_true hwf) _ _)
  | nop | halt | popinh | add | sub | nor => exact State.fetchInstr_of_holdsBytes_f0 h

/-- Settles O7: a running step runs what it fetches, and that is the stored instruction. -/
theorem stepRunsStoredEncoding : Obligations.StepRunsStoredEncoding := by
  intro s i hrun hwf hbytes
  rw [step_of_running (s.not_stopped_iff.2 hrun), State.fetchInstr_of_holdsBytes_encode hwf hbytes]

/-- Settles O45: each of the four forms writes one byte and keeps the latches, so the next step fetches from
memory after that write. -/
theorem storeIsSeenByTheNextFetch : Obligations.StoreIsSeenByTheNextFetch := by
  intro s a sp' n v hrun hstore
  obtain ⟨t, hstep, hpc, hsp, hfault, hhalt, hmem⟩ : ∃ t, step s = .next t ∧ t.pc = s.pc + n ∧ t.sp = sp'
      ∧ t.fault = s.fault ∧ t.halt = s.halt ∧ t.mem = s.mem.write a v := by
    refine ⟨s.after s.fetchInstr, by simp [step_eq, s.not_stopped_iff.2 hrun], ?_⟩
    rcases hstore with ⟨hi, rfl, rfl, rfl⟩ | ⟨hi, rfl, rfl, rfl⟩ | ⟨⟨A, hi, rfl⟩, rfl, rfl, rfl⟩
      | ⟨hi, rfl, rfl, rfl, rfl⟩
    all_goals
      rw [hi]
      exact ⟨rfl, rfl, rfl, rfl, rfl⟩
  have hrun' : t.Running := ⟨hfault.trans hrun.1, hhalt.trans hrun.2⟩
  have hread : ∀ b, t.read b = if b = a then v else s.read b := fun b =>
    (congrArg (·.read b) hmem).trans (Memory.read_write s.mem a b v)
  refine ⟨t, hstep, hpc, hsp, hrun', hread, ?_⟩
  rw [step_of_running (t.not_stopped_iff.2 hrun'), t.fetchInstr_eq, hpc, hread, hread, hread]

end Sys2Proof.Machine

/-! PROOFS. The accesses of the pseudocode are the table of R34 (D4, D5). -/

namespace Sys2Proof.Machine

@[simp] theorem Bus.memRead_fst (b : Bus) (a : Addr) : (b.memRead a).1 = b.st.read a := rfl
@[simp] theorem Bus.memRead_st (b : Bus) (a : Addr) : (b.memRead a).2.st = b.st := rfl
@[simp] theorem Bus.memRead_log (b : Bus) (a : Addr) : (b.memRead a).2.log = b.log ++ [Access.read a] := rfl
@[simp] theorem Bus.memWrite_st (b : Bus) (a : Addr) (v : Byte) : (b.memWrite a v).st = b.st.write a v := rfl
@[simp] theorem Bus.memWrite_log (b : Bus) (a : Addr) (v : Byte) :
    (b.memWrite a v).log = b.log ++ [Access.write a] := rfl
@[simp] theorem Bus.fetch8_fst (b : Bus) : b.fetch8.1 = b.st.read b.st.pc := rfl
@[simp] theorem Bus.fetch8_st (b : Bus) : b.fetch8.2.st = b.st.setPc (b.st.pc + 1) := rfl
@[simp] theorem Bus.fetch8_log (b : Bus) : b.fetch8.2.log = b.log ++ [Access.fetch b.st.pc] := rfl
@[simp] theorem Bus.setPc_log (b : Bus) (a : Addr) : (b.setPc a).log = b.log := rfl
@[simp] theorem Bus.setSp_log (b : Bus) (a : Addr) : (b.setSp a).log = b.log := rfl

/-- The operand of an ext instruction is the two bytes at `pc`, big-endian (R54). -/
@[simp] theorem Bus.fetchExt_fst (b : Bus) :
    b.fetchExt.1 = extAddr (b.st.read b.st.pc) (b.st.read (b.st.pc + 1)) := rfl
@[simp] theorem Bus.fetchExt_st (b : Bus) : b.fetchExt.2.st = b.st.setPc (b.st.pc + 1 + 1) := rfl
@[simp] theorem Bus.fetchExt_log (b : Bus) :
    b.fetchExt.2.log = b.log ++ [Access.fetch b.st.pc, Access.fetch (b.st.pc + 1)] := by
  simp [Bus.fetchExt]

/-- UpdatePSW makes one store, whichever of the three bytes it is (R96). -/
@[simp] theorem Bus.updatePsw_log (b : Bus) (r : Byte) :
    (b.updatePsw r).log = b.log ++ [Access.write Config.pswAddr] := by
  unfold Bus.updatePsw
  split
  · rfl
  · split <;> rfl

/-- A jump's last statement makes no access, whether it jumps or not (R90, R91). -/
theorem Bus.setPc_if_log (b : Bus) (c : Prop) [Decidable c] (a : Addr) :
    (if c then b.setPc a else b).log = b.log := by
  split <;> rfl

theorem State.fetches_zero (s : State) : s.fetches 0 = [] := rfl

/-- The fetch of one byte, then the fetches from the byte after it (R67). -/
theorem State.fetches_succ (s : State) (n : Nat) :
    s.fetches (n + 1) = Access.fetch s.pc :: (s.setPc (s.pc + 1)).fetches n := by
  have hnext : ∀ k, s.pc + BitVec.ofNat 16 (k + 1) = s.pc + 1 + BitVec.ofNat 16 k := by
    intro k
    rw [Nat.add_comm, BitVec.ofNat_add, ← BitVec.add_assoc]
    rfl
  have hfirst : s.pc + BitVec.ofNat 16 0 = s.pc := BitVec.add_zero s.pc
  simp only [State.fetches, List.range_succ_eq_map, List.map_cons, List.map_map, Function.comp_def,
    State.setPc_pc, hfirst, Nat.succ_eq_add_one, hnext]

theorem State.fetches_one (s : State) : s.fetches 1 = [Access.fetch s.pc] := by
  rw [State.fetches_succ, State.fetches_zero]

theorem State.fetches_two (s : State) : s.fetches 2 = [Access.fetch s.pc, Access.fetch (s.pc + 1)] := by
  rw [State.fetches_succ, State.fetches_one, State.setPc_pc]

/-- The data accesses depend on `sp` alone (R34). -/
theorem dataAccesses_congr (i : Instr) {s₁ s₂ : State} (hsp : s₁.sp = s₂.sp) :
    dataAccesses i s₁ = dataAccesses i s₂ := by
  cases i with
  | nop | halt | popinh | jnz | jnn | invalid => rfl
  | pushimm | pushext | popext | add | sub | nor =>
    simp only [dataAccesses, State.topAddr, State.secondAddr, hsp]

theorem Bus.dispatch_invalid (b : Bus) {op : Byte} (h : 11 ≤ op.toNat) :
    b.dispatch op = { b with st := b.st.setFault true } := by
  unfold Bus.dispatch
  split
  case h_12 => rfl
  all_goals exact absurd h (by decide)

/-! The accesses of each arm: its operand fetches, then its row of the table. -/

section ArmLogs
variable (b : Bus)

theorem Bus.pushimm_log : b.pushimm.log = b.log ++ [Access.fetch b.st.pc, Access.write b.st.sp] := by
  simp [Bus.pushimm]

theorem Bus.pushext_log : b.pushext.log = b.log ++ [Access.fetch b.st.pc, Access.fetch (b.st.pc + 1),
    Access.read (extAddr (b.st.read b.st.pc) (b.st.read (b.st.pc + 1))), Access.write b.st.sp] := by
  simp [Bus.pushext]

theorem Bus.popext_log : b.popext.log = b.log ++ [Access.fetch b.st.pc, Access.fetch (b.st.pc + 1),
    Access.read b.st.topAddr, Access.write (extAddr (b.st.read b.st.pc) (b.st.read (b.st.pc + 1)))] := by
  simp [Bus.popext, State.topAddr]

theorem Bus.jnz_log : b.jnz.log
    = b.log ++ [Access.fetch b.st.pc, Access.fetch (b.st.pc + 1), Access.read Config.pswAddr] := by
  refine (Bus.setPc_if_log _ _ _).trans ?_
  simp [Config.pswAddr]

theorem Bus.jnn_log : b.jnn.log
    = b.log ++ [Access.fetch b.st.pc, Access.fetch (b.st.pc + 1), Access.read Config.pswAddr] := by
  refine (Bus.setPc_if_log _ _ _).trans ?_
  simp [Config.pswAddr]

theorem Bus.add_log : b.add.log = b.log ++ [Access.read b.st.secondAddr, Access.read b.st.topAddr,
    Access.write b.st.secondAddr, Access.write Config.pswAddr] := by
  simp [Bus.add, State.topAddr, State.secondAddr]

theorem Bus.sub_log : b.sub.log = b.log ++ [Access.read b.st.topAddr, Access.read b.st.secondAddr,
    Access.write b.st.secondAddr, Access.write Config.pswAddr] := by
  simp [Bus.sub, State.topAddr, State.secondAddr]

theorem Bus.nor_log : b.nor.log = b.log ++ [Access.read b.st.secondAddr, Access.read b.st.topAddr,
    Access.write b.st.secondAddr] := by
  simp [Bus.nor, State.topAddr, State.secondAddr]

end ArmLogs

/-- After the opcode fetch: the remaining fetches of the instruction, then its data accesses. -/
theorem Bus.dispatch_log (b : Bus) (op : Byte) {i : Instr}
    (hi : i = decodeWindow op (b.st.read b.st.pc) (b.st.read (b.st.pc + 1))) :
    (b.dispatch op).log = b.log ++ (b.st.fetches (i.length - 1) ++ dataAccesses i b.st) := by
  subst hi
  rcases opcode_cases op with
    (rfl | rfl | rfl | rfl | rfl | rfl | rfl | rfl | rfl | rfl | rfl) | hinvalid
  · exact (List.append_nil b.log).symm
  · exact (List.append_nil b.log).symm
  · rw [decodeWindow_pushimm, Instr.length, State.fetches_one]; exact b.pushimm_log
  · rw [decodeWindow_pushext, Instr.length, State.fetches_two]; exact b.pushext_log
  · exact (List.append_nil b.log).symm
  · rw [decodeWindow_popext, Instr.length, State.fetches_two]; exact b.popext_log
  · rw [decodeWindow_jnz, Instr.length, State.fetches_two]; exact b.jnz_log
  · rw [decodeWindow_jnn, Instr.length, State.fetches_two]; exact b.jnn_log
  · exact b.add_log
  · exact b.sub_log
  · exact b.nor_log
  · rw [decodeWindow_invalid hinvalid, Bus.dispatch_invalid b hinvalid]
    exact (List.append_nil b.log).symm

theorem Instr.length_eq_succ (i : Instr) : i.length = i.length - 1 + 1 := by
  cases i <;> rfl

theorem pseudoStep_of_stopped {s : State} (h : s.stopped = true) : pseudoStep s = ⟨s, []⟩ :=
  if_pos (s.stopped_iff.1 h)

theorem pseudoStep_of_running {s : State} (h : s.stopped = false) :
    pseudoStep s = Bus.dispatch ⟨s.setPc (s.pc + 1), [Access.fetch s.pc]⟩ (s.read s.pc) := by
  obtain ⟨hfault, hhalt⟩ := s.not_stopped_iff.1 h
  simp [pseudoStep, hfault, hhalt, Bus.fetch8]

/-- Settles O13: the opcode fetch and the accesses of the dispatched arm are the row of the fetched instruction. -/
theorem accessesFollowTheTable : Obligations.AccessesFollowTheTable := by
  intro s
  cases hs : s.stopped with
  | true => simp [pseudoStep_of_stopped hs, State.stepAccesses, hs]
  | false =>
    have hfetch : s.fetchInstr = decodeWindow (s.read s.pc) (s.read (s.pc + 1)) (s.read (s.pc + 1 + 1)) := by
      rw [s.fetchInstr_eq, BitVec.add_assoc]; rfl
    calc (pseudoStep s).log
        = [Access.fetch s.pc] ++ ((s.setPc (s.pc + 1)).fetches (s.fetchInstr.length - 1)
            ++ dataAccesses s.fetchInstr (s.setPc (s.pc + 1))) := by
          rw [pseudoStep_of_running hs]
          exact Bus.dispatch_log _ _ hfetch
      _ = s.fetches s.fetchInstr.length ++ dataAccesses s.fetchInstr s := by
          rw [Instr.length_eq_succ, State.fetches_succ, dataAccesses_congr _ (s.setPc_sp _)]
          rfl
      _ = s.stepAccesses := by simp [State.stepAccesses, hs]

end Sys2Proof.Machine

/-! PROOFS. A step depends on the registers, the latches and the bytes it reads, and on nothing else (R34, R37). -/

namespace Sys2Proof.Machine

theorem State.status_eq_iff {s t : State} :
    s.status = t.status ↔ s.pc = t.pc ∧ s.sp = t.sp ∧ s.fault = t.fault ∧ s.halt = t.halt := by
  simp [State.status]

/-- The addresses of an instruction's data reads. -/
def dataReads (i : Instr) (s : State) : List Addr := (dataAccesses i s).filterMap Access.readAddr

/-- A running step reads the bytes of its instruction and what the instruction reads. -/
theorem State.stepReads_of_running {s : State} (hrun : s.Running) :
    s.stepReads = (List.range s.fetchInstr.length).map (fun k => s.pc + BitVec.ofNat 16 k)
      ++ dataReads s.fetchInstr s := by
  simp [State.stepReads, State.stepAccesses, s.not_stopped_iff.2 hrun, State.fetches, List.filterMap_append,
    List.filterMap_map, Function.comp_def, Access.readAddr, dataReads]

theorem State.fetched_mem_stepReads {s : State} (hrun : s.Running) {k : Nat} (hk : k < s.fetchInstr.length) :
    s.pc + BitVec.ofNat 16 k ∈ s.stepReads := by
  rw [s.stepReads_of_running hrun]
  exact List.mem_append_left _ (List.mem_map_of_mem (List.mem_range.2 hk))

theorem State.dataRead_mem_stepReads {s : State} (hrun : s.Running) {a : Addr}
    (ha : a ∈ dataReads s.fetchInstr s) : a ∈ s.stepReads := by
  rw [s.stepReads_of_running hrun]
  exact List.mem_append_right _ ha

/-- The opcode map looks at no byte past the instruction it gives (R50, R59). -/
theorem decodeWindow_congr {op b1 b2 c1 c2 : Byte} (h1 : 1 < (decodeWindow op b1 b2).length → b1 = c1)
    (h2 : 2 < (decodeWindow op b1 b2).length → b2 = c2) : decodeWindow op b1 b2 = decodeWindow op c1 c2 := by
  have hext (hlen : (decodeWindow op b1 b2).length = 3) : extAddr b1 b2 = extAddr c1 c2 :=
    congrArg₂ extAddr (h1 (by omega)) (h2 (by omega))
  rcases opcode_cases op with
    (rfl | rfl | rfl | rfl | rfl | rfl | rfl | rfl | rfl | rfl | rfl) | hinvalid
  · rfl
  · rfl
  · exact congrArg Instr.pushimm (h1 (Nat.lt_succ_self 1))
  · exact congrArg Instr.pushext (hext rfl)
  · rfl
  · exact congrArg Instr.popext (hext rfl)
  · exact congrArg Instr.jnz (hext rfl)
  · exact congrArg Instr.jnn (hext rfl)
  · rfl
  · rfl
  · rfl
  · rw [decodeWindow_invalid hinvalid, decodeWindow_invalid hinvalid]

section Footprint
variable {s₁ s₂ : State} {i : Instr}

/-- States that agree on `pc` and on the bytes of the instruction there fetch the same instruction. -/
theorem State.fetchInstr_congr
    (h : ∀ k < s₁.fetchInstr.length, s₁.streamByte k = s₂.streamByte k) : s₁.fetchInstr = s₂.fetchInstr := by
  have hopcode : s₁.streamByte 0 = s₂.streamByte 0 := h 0 (by rw [Instr.length_eq_succ]; exact Nat.succ_pos _)
  calc s₁.fetchInstr
      = decodeWindow (s₁.streamByte 0) (s₂.streamByte 1) (s₂.streamByte 2) := decodeWindow_congr (h 1) (h 2)
    _ = s₂.fetchInstr := by rw [hopcode, State.fetchInstr]

/-- An instruction's registers and latches come from those before it and, for a jump, from the byte it reads. -/
theorem State.status_after_congr (hstatus : s₁.status = s₂.status)
    (hreads : ∀ a ∈ dataReads i s₁, s₁.read a = s₂.read a) : (s₁.after i).status = (s₂.after i).status := by
  obtain ⟨hpc, hsp, hfault, hhalt⟩ := State.status_eq_iff.1 hstatus
  have hpc' : s₁.pcAfter i = s₂.pcAfter i := by
    cases i with
    | jnz addr | jnn addr =>
      have hpsw : s₁.psw = s₂.psw := hreads Config.pswAddr List.mem_cons_self
      simp only [State.pcAfter, hpsw, hpc]
    | _ => simp only [State.pcAfter, hpc]
  have hfault' : s₁.faultAfter i = s₂.faultAfter i := by
    cases i with
    | invalid op => rfl
    | _ => exact hfault
  have hhalt' : s₁.haltAfter i = s₂.haltAfter i := by
    cases i with
    | halt => rfl
    | _ => exact hhalt
  exact State.status_eq_iff.2 ⟨hpc', congrArg (spAfter · i) hsp, hfault', hhalt'⟩

/-- A stored cell does not depend on the memory it is stored to. -/
theorem Memory.read_write_congr (m₁ m₂ : Memory) {a b : Addr} {v₁ v₂ : Byte} (hb : b = a) (hv : v₁ = v₂) :
    (m₁.write a v₁).read b = (m₂.write a v₂).read b := by
  rw [Memory.read_write, Memory.read_write, if_pos hb, if_pos hb, hv]

/-- Neither do the two cells add and sub store. -/
theorem Memory.read_storeResult_congr (m₁ m₂ : Memory) {a b : Addr} {r₁ r₂ : Byte}
    (hb : b = a ∨ b = Config.pswAddr) (hr : r₁ = r₂) :
    (m₁.storeResult Config.pswStoreLast a r₁).read b = (m₂.storeResult Config.pswStoreLast a r₂).read b := by
  rw [Config.pswStoreLast, Memory.read_storeResult_last, Memory.read_storeResult_last, hr]
  by_cases hpsw : b = Config.pswAddr
  · rw [if_pos hpsw, if_pos hpsw]
  · have hres : b = a := hb.resolve_right hpsw
    rw [if_pos hres, if_pos hres]

/-- What an instruction stores comes from its operand, `sp` and the bytes it reads. -/
theorem State.read_after_congr (hsp : s₁.sp = s₂.sp) (hreads : ∀ a ∈ dataReads i s₁, s₁.read a = s₂.read a)
    {a : Addr} (ha : a ∈ storeAddrs i s₁) : (s₁.after i).read a = (s₂.after i).read a := by
  rw [State.after_read, State.after_read, ← hsp]
  cases i with
  | pushimm imm => exact Memory.read_write_congr _ _ (mem_storeAddrs_pushimm.1 ha) rfl
  | pushext addr =>
    exact Memory.read_write_congr _ _ (mem_storeAddrs_pushext.1 ha) (hreads addr List.mem_cons_self)
  | popext addr =>
    exact Memory.read_write_congr _ _ (mem_storeAddrs_popext.1 ha) (hreads s₁.topAddr List.mem_cons_self)
  | add =>
    exact Memory.read_storeResult_congr _ _ (mem_storeAddrs_add.1 ha)
      (congrArg₂ (· + ·) (hreads s₁.secondAddr List.mem_cons_self)
        (hreads s₁.topAddr (List.mem_cons_of_mem _ List.mem_cons_self)))
  | sub =>
    exact Memory.read_storeResult_congr _ _ (mem_storeAddrs_sub.1 ha)
      (congrArg₂ (· - ·) (hreads s₁.topAddr List.mem_cons_self)
        (hreads s₁.secondAddr (List.mem_cons_of_mem _ List.mem_cons_self)))
  | nor =>
    exact Memory.read_write_congr _ _ (mem_storeAddrs_nor.1 ha)
      (congrArg₂ (fun second top => ~~~(second ||| top)) (hreads s₁.secondAddr List.mem_cons_self)
        (hreads s₁.topAddr (List.mem_cons_of_mem _ List.mem_cons_self)))
  | nop | halt | popinh | jnz | jnn | invalid => exact absurd ha List.not_mem_nil

end Footprint

theorem State.stepStores_of_stopped {s : State} (h : s.stopped = true) : s.stepStores = [] := by
  simp [State.stepStores, State.stepAccesses, h]

/-- Settles O14: the two states fetch the same instruction, whose effect comes from the bytes it reads. -/
theorem stepReadsOnlyItsFootprint : Obligations.StepReadsOnlyItsFootprint := by
  intro s₁ s₂ t₁ t₂ hstatus hreads hstep₁ hstep₂
  obtain ⟨hpc, hsp, hfault, hhalt⟩ := State.status_eq_iff.1 hstatus
  rcases step_cases hstep₁ with ⟨hstopped, rfl⟩ | ⟨hrun₁, rfl⟩
  · have hstopped₂ : s₂.stopped = true := by rw [← hstopped, State.stopped, State.stopped, hfault, hhalt]
    obtain rfl := Host.Outcome.next.inj ((step_of_stopped hstopped₂).symm.trans hstep₂)
    rw [State.stepStores_of_stopped hstopped, State.stepStores_of_stopped hstopped₂]
    exact ⟨hstatus, rfl, fun a ha => absurd ha List.not_mem_nil⟩
  · have hrun₂ : s₂.Running := ⟨hfault ▸ hrun₁.1, hhalt ▸ hrun₁.2⟩
    have hinstr : s₁.fetchInstr = s₂.fetchInstr := State.fetchInstr_congr fun k hk => by
      rw [State.streamByte, State.streamByte, ← hpc]
      exact hreads _ (State.fetched_mem_stepReads hrun₁ hk)
    have hdata : ∀ a ∈ dataReads s₁.fetchInstr s₁, s₁.read a = s₂.read a := fun a ha =>
      hreads a (State.dataRead_mem_stepReads hrun₁ ha)
    rw [eq_after_of_step hrun₂ hstep₂, s₁.stepStores_of_running hrun₁, s₂.stepStores_of_running hrun₂, ← hinstr]
    exact ⟨State.status_after_congr hstatus hdata,
      congrArg (List.filterMap Access.writeAddr) (dataAccesses_congr _ hsp),
      fun a ha => State.read_after_congr hsp hdata ha⟩

end Sys2Proof.Machine

/-! PROOFS. The decoder and the encoder are inverse to each other, and the opcode byte gives the length
(R50 to R59). -/

namespace Sys2Proof

/-- Reading two stream bytes as an address loses neither (R53, R54). -/
theorem addrBytes_extAddr (hi lo : Byte) : [addrHi (extAddr hi lo), addrLo (extAddr hi lo)] = [hi, lo] := by
  rw [addrHi_extAddr, addrLo_extAddr]

theorem wf_decodeWindow (op b1 b2 : Byte) : (decodeWindow op b1 b2).wf = true := by
  rcases opcode_cases op with
    (rfl | rfl | rfl | rfl | rfl | rfl | rfl | rfl | rfl | rfl | rfl) | hinvalid
  case inr => rw [decodeWindow_invalid hinvalid]; exact decide_eq_true hinvalid
  all_goals rfl

theorem opcode_decodeWindow (op b1 b2 : Byte) : (decodeWindow op b1 b2).opcode = op := by
  rcases opcode_cases op with
    (rfl | rfl | rfl | rfl | rfl | rfl | rfl | rfl | rfl | rfl | rfl) | hinvalid
  case inr => rw [decodeWindow_invalid hinvalid]; rfl
  all_goals rfl

theorem length_decodeWindow (op b1 b2 : Byte) :
    (decodeWindow op b1 b2).length = formatLength (formatOf op) := by
  rcases opcode_cases op with
    (rfl | rfl | rfl | rfl | rfl | rfl | rfl | rfl | rfl | rfl | rfl) | hinvalid
  case inr => rw [decodeWindow_invalid hinvalid, formatOf_invalid hinvalid]; rfl
  all_goals rfl

/-- A decoded instruction keeps every byte its format has: an ext operand still gives both of its bytes
(R54, R58). -/
theorem encode_decodeWindow (op b1 b2 : Byte) :
    encode (decodeWindow op b1 b2) = [op, b1, b2].take (formatLength (formatOf op)) := by
  rcases opcode_cases op with
    (rfl | rfl | rfl | rfl | rfl | rfl | rfl | rfl | rfl | rfl | rfl) | hinvalid
  · rfl
  · rfl
  · rfl
  · exact congrArg (_ :: ·) (addrBytes_extAddr b1 b2)
  · rfl
  · exact congrArg (_ :: ·) (addrBytes_extAddr b1 b2)
  · exact congrArg (_ :: ·) (addrBytes_extAddr b1 b2)
  · exact congrArg (_ :: ·) (addrBytes_extAddr b1 b2)
  · rfl
  · rfl
  · rfl
  · rw [decodeWindow_invalid hinvalid, formatOf_invalid hinvalid]; rfl

/-- The column of lengths of R56's table (R59). -/
theorem formatLength_formatOf (op : Byte) :
    formatLength (formatOf op) =
      if op = 0x02 then 2 else if op = 0x03 ∨ op = 0x05 ∨ op = 0x06 ∨ op = 0x07 then 3 else 1 := by
  rcases opcode_cases op with
    (rfl | rfl | rfl | rfl | rfl | rfl | rfl | rfl | rfl | rfl | rfl) | hinvalid
  case inr => simp [formatOf_invalid hinvalid, formatLength, Machine.ne_of_invalid_opcode hinvalid]
  all_goals rfl

section DecodeByFormat
variable {op : Byte}

theorem decode_f0 (h : formatOf op = .f0) (rest : List Byte) :
    decode (op :: rest) = .ok (decodeWindow op 0 0, rest) := by
  simp only [decode, h]

theorem decode_f1 (h : formatOf op = .f1) (b1 : Byte) (rest : List Byte) :
    decode (op :: b1 :: rest) = .ok (decodeWindow op b1 0, rest) := by
  simp only [decode, h]

theorem decode_f2 (h : formatOf op = .f2) (b1 b2 : Byte) (rest : List Byte) :
    decode (op :: b1 :: b2 :: rest) = .ok (decodeWindow op b1 b2, rest) := by
  simp only [decode, h]

/-- All the decoder does with a list that is long enough: it takes the bytes of the format, which are those
of a window, and leaves the others (R50). -/
theorem decode_of_long_enough {rest : List Byte} (h : formatLength (formatOf op) ≤ rest.length + 1) :
    ∃ b1 b2, [op, b1, b2].take (formatLength (formatOf op)) = (op :: rest).take (formatLength (formatOf op))
      ∧ decode (op :: rest) = .ok (decodeWindow op b1 b2, (op :: rest).drop (formatLength (formatOf op))) := by
  cases hformat : formatOf op with
  | f0 => exact ⟨0, 0, rfl, decode_f0 hformat rest⟩
  | f1 =>
    rw [hformat, formatLength] at h
    match rest, h with
    | b1 :: rest, _ => exact ⟨b1, 0, rfl, decode_f1 hformat b1 rest⟩
  | f2 =>
    rw [hformat, formatLength] at h
    match rest, h with
    | b1 :: b2 :: rest, _ => exact ⟨b1, b2, rfl, decode_f2 hformat b1 b2 rest⟩

/-- A list that ends inside the instruction is refused by name (log entry 11). -/
theorem decode_of_too_short {rest : List Byte} (h : rest.length + 1 < formatLength (formatOf op)) :
    decode (op :: rest) = .error (.missingOperand op) := by
  cases hformat : formatOf op with
  | f0 => rw [hformat, formatLength] at h; omega
  | f1 =>
    rw [hformat, formatLength] at h
    match rest, h with
    | [], _ => simp only [decode, hformat]
  | f2 =>
    rw [hformat, formatLength] at h
    match rest, h with
    | [], _ => simp only [decode, hformat]
    | [_], _ => simp only [decode, hformat]

end DecodeByFormat

/-- Settles O1: by the rows of R56's table; the operand of an ext row comes back from its two bytes. -/
theorem decodeEncodeRoundTrip : Obligations.DecodeEncodeRoundTrip := by
  intro i rest hwf
  have hext (wrap : Addr → Instr) (addr : Addr) :
      Except.ok (ε := DecodeReject) (wrap (extAddr (addrHi addr) (addrLo addr)), rest) = .ok (wrap addr, rest) := by
    rw [extAddr_addrHi_addrLo]
  cases i with
  | pushext addr => exact hext .pushext addr
  | popext addr => exact hext .popext addr
  | jnz addr => exact hext .jnz addr
  | jnn addr => exact hext .jnn addr
  | invalid op =>
    have h11 : 11 ≤ op.toNat := of_decide_eq_true hwf
    exact (decode_f0 (formatOf_invalid h11) rest).trans (by rw [decodeWindow_invalid h11])
  | nop | halt | pushimm | popinh | add | sub | nor => rfl

/-- Settles O2: a list the decoder accepts is long enough, and the bytes it takes are those of the window. -/
theorem decodedBytesAreTheEncoding : Obligations.DecodedBytesAreTheEncoding := by
  intro bs i rest hdecode
  cases bs with
  | nil => cases hdecode
  | cons op tail =>
    rcases Nat.lt_or_ge (tail.length + 1) (formatLength (formatOf op)) with hshort | hlong
    · cases (decode_of_too_short hshort).symm.trans hdecode
    · obtain ⟨b1, b2, htaken, hok⟩ := decode_of_long_enough hlong
      cases hok.symm.trans hdecode
      refine ⟨wf_decodeWindow op b1 b2, ?_⟩
      rw [encode_decodeWindow, htaken, List.take_append_drop]

/-- Settles O5: the length is that of the opcode byte's format, which is all the decoder goes by. -/
theorem opcodeGivesLength : Obligations.OpcodeGivesLength := by
  intro op rest n hn
  obtain rfl : n = formatLength (formatOf op) := hn.trans (formatLength_formatOf op).symm
  refine ⟨fun hlong => ?_, decode_of_too_short⟩
  obtain ⟨b1, b2, _, hok⟩ := decode_of_long_enough hlong
  exact ⟨decodeWindow op b1 b2, hok, length_decodeWindow op b1 b2, opcode_decodeWindow op b1 b2⟩

/-- Settles O3: each word is the encoding of what it is said to stand for. -/
theorem specWordsDecode : Obligations.SpecWordsDecode :=
  ⟨decodeEncodeRoundTrip .nop [] rfl, decodeEncodeRoundTrip .halt [] rfl,
    decodeEncodeRoundTrip (.pushimm 0xFF) [] rfl, decodeEncodeRoundTrip (.pushext 0x1234) [] rfl,
    decodeEncodeRoundTrip (.popext 0xFFFC) [] rfl, decodeEncodeRoundTrip (.jnz 0x1234) [] rfl,
    decodeEncodeRoundTrip (.jnn 0x0010) [] rfl, decodeEncodeRoundTrip .sub [] rfl,
    decodeEncodeRoundTrip (.invalid 0x0B) [] rfl⟩

/-- An opcode byte is decoded as the invalid row exactly from 11 up (R57). -/
theorem decodeWindow_eq_invalid_iff (op b1 b2 : Byte) :
    decodeWindow op b1 b2 = .invalid op ↔ 11 ≤ op.toNat := by
  refine ⟨fun h => ?_, fun h => decodeWindow_invalid h b1 b2⟩
  have hwf : (Instr.invalid op).wf = true := h ▸ wf_decodeWindow op b1 b2
  exact of_decide_eq_true hwf

/-- Of the 256 byte values the 245 from 11 up are invalid (R57). -/
theorem invalid_opcodes_count :
    ((List.range 256).filter fun n =>
      decide (decodeWindow (BitVec.ofNat 8 n) 0 0 = .invalid (BitVec.ofNat 8 n))).length = 245 := by
  have hfrom11 : ∀ n ∈ List.range 256,
      decide (decodeWindow (BitVec.ofNat 8 n) 0 0 = .invalid (BitVec.ofNat 8 n)) = decide (11 ≤ n) := by
    intro n hn
    have htoNat : (BitVec.ofNat 8 n).toNat = n := Nat.mod_eq_of_lt (List.mem_range.1 hn)
    rw [decide_eq_decide, decodeWindow_eq_invalid_iff, htoNat]
  rw [List.filter_congr hfrom11, ← List.Ico.zero_bot, List.Ico.filter_le, List.Ico.length]
  decide

end Sys2Proof

namespace Sys2Proof.Machine

/-- A running step at an invalid opcode byte runs the invalid row, whatever follows the byte (R57, R72). -/
theorem step_of_invalid_opcode {s : State} (hrun : s.Running) (h : 11 ≤ (s.read s.pc).toNat) :
    step s = .next (s.after (.invalid (s.read s.pc))) := by
  rw [step_of_running (s.not_stopped_iff.2 hrun), s.fetchInstr_eq, decodeWindow_invalid h, exec_eq_after]

/-- Settles O4: the two directions of the decoder on the encoding of an invalid opcode, the count, and the
one effect all of them have. -/
theorem invalidOpcodesExactly : Obligations.InvalidOpcodesExactly := by
  refine ⟨fun op rest => ⟨fun h => ?_, fun hdecode => ?_⟩, invalid_opcodes_count, fun s hrun h => ?_,
    fun _ _ _ => rfl⟩
  · exact decodeEncodeRoundTrip (.invalid op) rest (decide_eq_true h)
  · exact of_decide_eq_true (decodedBytesAreTheEncoding _ _ _ hdecode).1
  · exact ⟨_, step_of_invalid_opcode hrun h, rfl⟩

end Sys2Proof.Machine

/-! PROOFS. Two idioms of R61: the jump pair of R92, and the complement by nor. -/

namespace Sys2Proof.Machine

section HoldsAppend
variable {s : State} {a : Addr} {bs cs : List Byte}

theorem State.HoldsBytes.left (h : s.HoldsBytes a (bs ++ cs)) : s.HoldsBytes a bs := by
  intro k hk
  rw [h k (by rw [List.length_append]; omega), List.getElem_append_left hk]

theorem State.HoldsBytes.right (h : s.HoldsBytes a (bs ++ cs)) :
    s.HoldsBytes (a + BitVec.ofNat 16 bs.length) cs := by
  intro k hk
  rw [BitVec.add_assoc, ← BitVec.ofNat_add, h (bs.length + k) (by rw [List.length_append]; omega),
    List.getElem_append_right (Nat.le_add_right _ _)]
  simp only [Nat.add_sub_cancel_left]

end HoldsAppend

/-- A running step at a stored encoding leaves the state of that instruction (R65, R66). -/
theorem step_of_holdsBytes_encode {s : State} {i : Instr} (hrun : s.Running) (hwf : i.wf = true)
    (h : s.HoldsBytes s.pc (encode i)) : step s = .next (s.after i) :=
  (stepRunsStoredEncoding s i hrun hwf h).trans (exec_eq_after i s)

theorem State.pcAfter_jnz_taken {s : State} (T : Addr) (h : s.psw ≠ Config.pswZ) : s.pcAfter (.jnz T) = T :=
  if_neg h

theorem State.pcAfter_jnz_not_taken {s : State} (T : Addr) (h : s.psw = Config.pswZ) :
    s.pcAfter (.jnz T) = s.pc + 3 :=
  if_pos h

theorem State.pcAfter_jnn_taken {s : State} (T : Addr) (h : s.psw ≠ Config.pswN) : s.pcAfter (.jnn T) = T :=
  if_neg h

/-- Settles O43: jnz falls through only on the zero encoding, which it leaves in place and on which jnn jumps. -/
theorem jumpPairAlwaysJumps : Obligations.JumpPairAlwaysJumps := by
  intro s T hrun hbytes
  refine ⟨_, step_of_holdsBytes_encode hrun rfl hbytes.left, ?_⟩
  by_cases hpsw : s.psw = Config.pswZ
  case neg => exact .inl ⟨s.pcAfter_jnz_taken T hpsw, hpsw⟩
  case pos =>
    have hpc : (s.after (.jnz T)).pc = s.pc + 3 := s.pcAfter_jnz_not_taken T hpsw
    have hnext : (s.after (.jnz T)).HoldsBytes (s.after (.jnz T)).pc (encode (.jnn T)) := by
      rw [hpc]
      exact hbytes.right
    have hpswN : (s.after (.jnz T)).psw ≠ Config.pswN := fun hN =>
      absurd (hpsw.symm.trans hN) (by decide)
    exact .inr ⟨hpc, hpsw, _, step_of_holdsBytes_encode hrun rfl hnext,
      State.pcAfter_jnn_taken T hpswN⟩

theorem State.read_after_pushimm_slot (s : State) (imm : Byte) : (s.after (.pushimm imm)).read s.sp = imm :=
  Memory.read_write_same _ _ _

theorem State.read_after_nor_second (s : State) :
    (s.after .nor).read (s.sp + 2) = ~~~(s.read (s.sp + 2) ||| s.read (s.sp + 1)) :=
  Memory.read_write_same _ _ _

/-- Settles O44: the push leaves 0x00 as the top and the old top as second, which nor complements. -/
theorem notIdiomComplementsTop : Obligations.NotIdiomComplementsTop := by
  intro s t u hpush hnor
  have ht := eq_after_of_exec hpush
  obtain rfl := eq_after_of_exec hnor
  have hsp : t.sp + 1 = s.sp := by rw [ht]; exact BitVec.sub_add_cancel s.sp 1
  have hsecond : t.sp + 2 = s.sp + 1 := by rw [← hsp, BitVec.add_assoc]; rfl
  have hzero : t.read s.sp = 0x00 := by rw [ht, State.read_after_pushimm_slot]
  have hread : ∀ a, a ≠ s.sp → t.read a = s.read a := fun a ha => by
    rw [ht, State.read_after_of_not_stored (mt mem_storeAddrs_pushimm.1 ha)]
  have hcomplement : (t.after .nor).read (s.sp + 1) = ~~~s.read (s.sp + 1) :=
    calc (t.after .nor).read (s.sp + 1)
        = ~~~(t.read (s.sp + 1) ||| t.read s.sp) := by
          rw [← hsecond, State.read_after_nor_second, hsp]
      _ = ~~~(t.read (s.sp + 1)) := by rw [hzero]; exact congrArg _ BitVec.or_zero
      _ = ~~~s.read (s.sp + 1) := by rw [hread _ (by bv_omega)]
  have husp : (t.after .nor).sp = s.sp := hsp
  refine ⟨by rw [husp, hcomplement], husp, fun a ha htop => ?_⟩
  rw [State.read_after_of_not_stored (mt mem_storeAddrs_nor.1 (hsecond ▸ htop)), hread a ha]

end Sys2Proof.Machine

/-! PROOFS. The step is the spec's pseudocode: after the opcode fetch each arm leaves what its instruction
leaves (R65 to R67, R70 to R72, R80 to R83, R90, R91, R96 to R99). -/

namespace Sys2Proof.Machine

/-! The results as the rules write them, over the numbers of the two bytes (R97, R98, R99). -/

theorem ofNat_sum_mod (second top : Byte) : BitVec.ofNat 8 ((second.toNat + top.toNat) % 256) = second + top :=
  BitVec.eq_of_toNat_eq (by simp)

theorem ofInt_difference_mod (top second : Byte) :
    BitVec.ofInt 8 (((top.toNat : Int) - (second.toNat : Int)) % 256) = top - second := by
  apply BitVec.eq_of_toNat_eq
  simp only [BitVec.toNat_ofInt, BitVec.toNat_sub]
  omega

theorem ofNat_255_sub_or (second top : Byte) :
    BitVec.ofNat 8 (255 - (second.toNat ||| top.toNat)) = ~~~(second ||| top) := by
  rw [← BitVec.toNat_or]
  apply BitVec.eq_of_toNat_eq
  simp only [BitVec.toNat_ofNat, BitVec.toNat_not]
  omega

/-- UpdatePSW stores the encoding of the result in the PSW cell (R96). -/
theorem Bus.updatePsw_eq (b : Bus) (r : Byte) : b.updatePsw r = b.memWrite Config.pswAddr (pswOf r) := by
  have hzero : r.toNat = 0 ↔ r = 0 := BitVec.toNat_inj (y := 0)
  simp only [Bus.updatePsw, pswOf, hzero]
  split
  · rfl
  · split <;> rfl

theorem Bus.setPc_if_st (b : Bus) (c : Prop) [Decidable c] (a : Addr) :
    (if c then b.setPc a else b).st = b.st.setPc (if c then a else b.st.pc) := by
  split <;> rfl

/-- The machine once its opcode has been fetched (R65, R67). -/
def State.opcodeFetched (s : State) : Bus := ⟨s.setPc (s.pc + 1), [Access.fetch s.pc]⟩

section ArmStates
variable (s : State)

theorem State.pc_add_one_twice : s.pc + 1 + 1 = s.pc + 2 := BitVec.add_assoc _ _ _

theorem State.pc_add_one_thrice : s.pc + 1 + 1 + 1 = s.pc + 3 := by
  rw [BitVec.add_assoc, BitVec.add_assoc]; rfl

/-- The pseudocode tests for a jump, `State.pcAfter` for the encoding on which there is none (R90, R91). -/
theorem State.pc_after_jump (c : Prop) [Decidable c] (a : Addr) :
    (if ¬c then a else s.pc + 1 + 1 + 1) = if c then s.pc + 3 else a := by
  rw [s.pc_add_one_thrice, ite_not]

/-! The state each arm leaves. The arms with operands fetch them one by one, so what is to be shown is
where `pc` ends; the ALU arms compute over numbers, so what is to be shown is the result. -/

theorem Bus.pushimm_st : s.opcodeFetched.pushimm.st = s.after (.pushimm (s.read (s.pc + 1))) :=
  State.eq_of_fields s.pc_add_one_twice rfl rfl rfl rfl

theorem Bus.pushext_st :
    s.opcodeFetched.pushext.st = s.after (.pushext (extAddr (s.read (s.pc + 1)) (s.read (s.pc + 1 + 1)))) :=
  State.eq_of_fields s.pc_add_one_thrice rfl rfl rfl rfl

theorem Bus.popext_st :
    s.opcodeFetched.popext.st = s.after (.popext (extAddr (s.read (s.pc + 1)) (s.read (s.pc + 1 + 1)))) :=
  State.eq_of_fields s.pc_add_one_thrice rfl rfl rfl rfl

theorem Bus.jnz_st :
    s.opcodeFetched.jnz.st = s.after (.jnz (extAddr (s.read (s.pc + 1)) (s.read (s.pc + 1 + 1)))) :=
  (Bus.setPc_if_st _ _ _).trans (State.eq_of_fields (s.pc_after_jump _ _) rfl rfl rfl rfl)

theorem Bus.jnn_st :
    s.opcodeFetched.jnn.st = s.after (.jnn (extAddr (s.read (s.pc + 1)) (s.read (s.pc + 1 + 1)))) :=
  (Bus.setPc_if_st _ _ _).trans (State.eq_of_fields (s.pc_after_jump _ _) rfl rfl rfl rfl)

theorem Bus.add_st : s.opcodeFetched.add.st = s.after .add := by
  simp only [Bus.add, ofNat_sum_mod, Bus.updatePsw_eq]
  rfl

theorem Bus.sub_st : s.opcodeFetched.sub.st = s.after .sub := by
  simp only [Bus.sub, ofInt_difference_mod, Bus.updatePsw_eq]
  rfl

theorem Bus.nor_st : s.opcodeFetched.nor.st = s.after .nor := by
  simp only [Bus.nor, ofNat_255_sub_or]
  rfl

/-- The arm an opcode byte dispatches to leaves what the opcode map's instruction leaves (R56, R66). -/
theorem Bus.dispatch_st (op : Byte) :
    (s.opcodeFetched.dispatch op).st
      = s.after (decodeWindow op (s.read (s.pc + 1)) (s.read (s.pc + 1 + 1))) := by
  rcases opcode_cases op with
    (rfl | rfl | rfl | rfl | rfl | rfl | rfl | rfl | rfl | rfl | rfl) | hinvalid
  · rfl
  · rfl
  · exact Bus.pushimm_st s
  · exact Bus.pushext_st s
  · rfl
  · exact Bus.popext_st s
  · exact Bus.jnz_st s
  · exact Bus.jnn_st s
  · exact Bus.add_st s
  · exact Bus.sub_st s
  · exact Bus.nor_st s
  · rw [decodeWindow_invalid hinvalid, Bus.dispatch_invalid _ hinvalid]
    rfl

end ArmStates

/-- Settles O12: the guard is the same, and the fetched instruction is the opcode map's on the bytes the
pseudocode fetches one by one. -/
theorem stepEqualsPseudocode : Obligations.StepEqualsPseudocode := by
  intro s
  cases hs : s.stopped with
  | true => rw [step_of_stopped hs, pseudoStep_of_stopped hs]
  | false =>
    calc step s
        = .next (s.after (decodeWindow (s.read s.pc) (s.read (s.pc + 1)) (s.read (s.pc + 1 + 1)))) := by
          rw [step_of_running hs, s.fetchInstr_eq, exec_eq_after, s.pc_add_one_twice]
      _ = .next (s.opcodeFetched.dispatch (s.read s.pc)).st := by rw [Bus.dispatch_st]
      _ = .next (pseudoStep s).st := by rw [pseudoStep_of_running hs, State.opcodeFetched]

end Sys2Proof.Machine

/-! PROOFS. The guard of Step, and what a running core runs: the instruction the bytes at `pc` decode to
(R65 to R67, R70 to R72). -/

namespace Sys2Proof.Machine

theorem steps_of_stopped {s : State} (h : s.stopped = true) (n : Nat) : steps n s = .next s := by
  induction n with
  | zero => exact steps_zero s
  | succ n ih => rw [steps_succ n (step_of_stopped h), ih]

/-- Settles O8: the three bytes at `pc` are those the model fetches, and a stopped core is a fixed point. -/
theorem stepGuard : Obligations.StepGuard :=
  ⟨fun s hrun => by rw [step_of_running (s.not_stopped_iff.2 hrun), s.fetchInstr_eq],
    fun s hlatch => steps_of_stopped (s.stopped_iff.2 hlatch)⟩

/-- A running step at a known opcode byte. -/
theorem step_of_opcode {s : State} {op : Byte} (hrun : s.Running) (hop : s.read s.pc = op) :
    step s = .next (s.after (decodeWindow op (s.read (s.pc + 1)) (s.read (s.pc + 2)))) := by
  rw [stepGuard.1 s hrun, hop, exec_eq_after]

theorem State.holdsBytes_window (s : State) :
    s.HoldsBytes s.pc [s.read s.pc, s.read (s.pc + 1), s.read (s.pc + 2)] := fun
  | 0, _ => congrArg s.read (BitVec.add_zero s.pc)
  | 1, _ => rfl
  | 2, _ => rfl

/-- Settles O6: what decodes to an instruction is its encoding, so that encoding stands at `pc`. -/
theorem stepRunsDecodedInstruction : Obligations.StepRunsDecodedInstruction := by
  intro s i rest hrun hdecode
  obtain ⟨hwf, hbytes⟩ := decodedBytesAreTheEncoding _ _ _ hdecode
  have hstored : s.HoldsBytes s.pc (encode i ++ rest) := hbytes ▸ s.holdsBytes_window
  exact stepRunsStoredEncoding s i hrun hwf hstored.left

/-- Settles O20: the fields of the state nop leaves. -/
theorem nopResult : Obligations.NopResult := fun s =>
  ⟨_, exec_eq_after .nop s, rfl, rfl, rfl, rfl, fun _ => rfl, fun hrun hop => step_of_opcode hrun hop⟩

/-- Settles O21: the fields of the state halt leaves, whose halt latch stops every later step. -/
theorem haltResult : Obligations.HaltResult := fun s =>
  ⟨_, exec_eq_after .halt s, rfl, rfl, rfl, rfl, fun _ => rfl, fun hrun hop =>
    ⟨step_of_opcode hrun hop, hrun.1, stepGuard.2 _ (.inr rfl)⟩⟩

/-- Settles O22: the fields of the state an invalid opcode leaves, whose fault latch stops every later step. -/
theorem invalidOpcodeResult : Obligations.InvalidOpcodeResult := fun op s =>
  ⟨_, exec_eq_after (.invalid op) s, rfl, rfl, rfl, rfl, fun _ => rfl, by
    rintro hrun rfl hinvalid
    exact ⟨step_of_invalid_opcode hrun hinvalid, hrun.2, stepGuard.2 _ (.inl rfl)⟩⟩

end Sys2Proof.Machine

/-! PROOFS. A Run is Steps from Running states, and on all-zero memory it has no end (R69, R70, R139). -/

namespace Sys2Proof.Machine

theorem runFor_of_stopped {s : State} (h : s.stopped = true) (fuel : Nat) : runFor fuel s = some s := by
  cases fuel with
  | zero => exact if_pos h
  | succ fuel => exact if_pos h

theorem eq_of_runFor_of_stopped {s t : State} {fuel : Nat} (hs : s.stopped = true)
    (h : runFor fuel s = some t) : s = t :=
  Option.some.inj ((runFor_of_stopped hs fuel).symm.trans h)

theorem runFor_zero_of_running {s : State} (h : s.stopped = false) : runFor 0 s = none := by
  simp [runFor, h]

theorem runFor_succ_of_running {s u : State} (h : s.stopped = false) (hstep : step s = .next u) (fuel : Nat) :
    runFor (fuel + 1) s = runFor fuel u := by
  simp [runFor, h, hstep]

theorem State.runningFor_zero (s : State) : s.RunningFor 0 := fun k hk => absurd hk (Nat.not_lt_zero k)

/-- A safe run is a Running state and a safe run from the one after it. -/
theorem State.runningFor_succ {s u : State} (hstep : step s = .next u) (n : Nat) :
    s.RunningFor (n + 1) ↔ s.Running ∧ u.RunningFor n := by
  constructor
  · refine fun h => ⟨h 0 n.succ_pos s (steps_zero s), fun k hk v hv => ?_⟩
    exact h (k + 1) (Nat.succ_lt_succ hk) v ((steps_succ k hstep).trans hv)
  · rintro ⟨hrun, h⟩ k hk v hv
    cases k with
    | zero => exact Host.Outcome.next.inj hv ▸ hrun
    | succ k => exact h k (Nat.lt_of_succ_lt_succ hk) v ((steps_succ k hstep).symm.trans hv)

/-- A Run that has ended took some number of Steps, each from a Running state. -/
theorem steps_of_runFor {fuel : Nat} {s t : State} (h : runFor fuel s = some t) :
    ∃ n, steps n s = .next t ∧ t.stopped = true ∧ s.RunningFor n := by
  induction fuel generalizing s with
  | zero =>
    cases hs : s.stopped with
    | true =>
      obtain rfl := eq_of_runFor_of_stopped hs h
      exact ⟨0, steps_zero s, hs, s.runningFor_zero⟩
    | false => cases (runFor_zero_of_running hs).symm.trans h
  | succ fuel ih =>
    cases hs : s.stopped with
    | true =>
      obtain rfl := eq_of_runFor_of_stopped hs h
      exact ⟨0, steps_zero s, hs, s.runningFor_zero⟩
    | false =>
      have hstep := step_eq s
      obtain ⟨n, hsteps, hstop, hsafe⟩ := ih ((runFor_succ_of_running hs hstep fuel).symm.trans h)
      exact ⟨n + 1, (steps_succ n hstep).trans hsteps, hstop,
        (State.runningFor_succ hstep n).2 ⟨s.not_stopped_iff.1 hs, hsafe⟩⟩

/-- The Steps of a safe run that ends stopped are a Run. -/
theorem runFor_of_steps {n : Nat} {s t : State} (hsteps : steps n s = .next t) (hstop : t.stopped = true)
    (hsafe : s.RunningFor n) : runFor n s = some t := by
  induction n generalizing s with
  | zero =>
    obtain rfl := Host.Outcome.next.inj hsteps
    exact runFor_of_stopped hstop 0
  | succ n ih =>
    have hstep := step_eq s
    obtain ⟨hrun, hsafe⟩ := (State.runningFor_succ hstep n).1 hsafe
    rw [runFor_succ_of_running (s.not_stopped_iff.2 hrun) hstep]
    exact ih ((steps_succ n hstep).symm.trans hsteps) hsafe

theorem runEnds_iff (s t : State) :
    RunEnds s t ↔ ∃ n, steps n s = .next t ∧ t.stopped = true ∧ s.RunningFor n :=
  ⟨fun ⟨_, h⟩ => steps_of_runFor h, fun ⟨n, hsteps, hstop, hsafe⟩ => ⟨n, runFor_of_steps hsteps hstop hsafe⟩⟩

theorem add_ofNat_succ (a : Addr) (n : Nat) : a + BitVec.ofNat 16 (n + 1) = a + 1 + BitVec.ofNat 16 n := by
  rw [Nat.add_comm, BitVec.ofNat_add, ← BitVec.add_assoc]
  rfl

/-- On all-zero memory every step of a running core is a nop (R70). -/
theorem steps_of_zero_memory {s : State} (hrun : s.Running) (hzero : ∀ a, s.read a = 0x00) (n : Nat) :
    steps n s = .next (s.setPc (s.pc + BitVec.ofNat 16 n)) := by
  induction n generalizing s with
  | zero =>
    have hpc : s.pc + BitVec.ofNat 16 0 = s.pc := BitVec.add_zero s.pc
    rw [hpc]
    rfl
  | succ n ih =>
    have hnop : step s = .next (s.setPc (s.pc + 1)) := step_of_opcode hrun (hzero s.pc)
    rw [steps_succ n hnop, ih (s := s.setPc (s.pc + 1)) hrun hzero, add_ofNat_succ]
    rfl

/-- Settles O57: a Run that ended would have ended after some number of nops, in a stopped state. -/
theorem zeroMemoryRunsForEver : Obligations.ZeroMemoryRunsForEver := by
  intro s hrun hzero
  refine ⟨steps_of_zero_memory hrun hzero, fun t hends => ?_⟩
  obtain ⟨n, hsteps, hstop, -⟩ := (runEnds_iff s t).1 hends
  obtain rfl := Host.Outcome.next.inj ((steps_of_zero_memory hrun hzero n).symm.trans hsteps)
  exact Bool.false_ne_true ((s.not_stopped_iff.2 hrun).symm.trans hstop)

/-- Settles O55: the two directions by induction on the fuel and on the number of Steps; the machine as
reset leaves it, its memory all zero, has a Run without an end. -/
theorem runIsRepeatedSteps : Obligations.RunIsRepeatedSteps :=
  ⟨runEnds_iff, State.reset, ⟨rfl, rfl⟩,
    (zeroMemoryRunsForEver State.reset ⟨rfl, rfl⟩ fun _ => rfl).2⟩

end Sys2Proof.Machine

/-! PROOFS. The stack and memory transfer instructions: each stores at most one byte, and reads it before it
stores (R80 to R83). -/

namespace Sys2Proof.Machine

/-- A running step at an opcode byte of format F2, its operand given as a number (R53, R54). -/
theorem step_of_ext_opcode {s : State} {op : Byte} {i : Addr → Instr} {A : Addr}
    (hrow : ∀ b1 b2, decodeWindow op b1 b2 = i (extAddr b1 b2)) (hrun : s.Running) (hop : s.read s.pc = op)
    (hA : A.toNat = (s.read (s.pc + 1)).toNat * 256 + (s.read (s.pc + 2)).toNat) :
    step s = .next (s.after (i A)) := by
  rw [step_of_opcode hrun hop, hrow, extAddr_of_toNat hA]

/-- Settles O23: the fields of the state pushimm leaves; the byte after the opcode is its operand. -/
theorem pushimmResult : Obligations.PushimmResult := fun imm s =>
  ⟨_, exec_eq_after (.pushimm imm) s, rfl, rfl, rfl, rfl, fun a => Memory.read_write s.mem s.sp a imm, by
    rintro hrun hop rfl
    exact step_of_opcode hrun hop⟩

/-- Settles O24: the fields of the state pushext leaves; the byte it stores is read from the old memory. -/
theorem pushextResult : Obligations.PushextResult := fun A s =>
  ⟨_, exec_eq_after (.pushext A) s, rfl, rfl, rfl, rfl, fun a => Memory.read_write s.mem s.sp a (s.read A),
    step_of_ext_opcode decodeWindow_pushext⟩

/-- Settles O25: the fields of the state popinh leaves, memory the same. -/
theorem popinhResult : Obligations.PopinhResult := fun s =>
  ⟨_, exec_eq_after .popinh s, rfl, rfl, rfl, rfl, fun _ => rfl, fun hrun hop => step_of_opcode hrun hop⟩

/-- Settles O26: the fields of the state popext leaves; it stores at `A` whatever cell that is. -/
theorem popextResult : Obligations.PopextResult := fun A s =>
  ⟨_, exec_eq_after (.popext A) s, rfl, rfl, rfl, rfl,
    fun a => Memory.read_write s.mem A a (s.read (s.sp + 1)), step_of_ext_opcode decodeWindow_popext⟩

end Sys2Proof.Machine

/-! PROOFS. The conditional jumps: each compares the whole PSW byte with one encoding and writes `pc` alone
(R90, R91). -/

namespace Sys2Proof.Machine

theorem State.pcAfter_jnn_not_taken {s : State} (T : Addr) (h : s.psw = Config.pswN) :
    s.pcAfter (.jnn T) = s.pc + 3 :=
  if_pos h

/-- Settles O27: the fields of the state jnz leaves, `pc` by its two cases on the zero encoding. -/
theorem jnzResult : Obligations.JnzResult := fun A s =>
  ⟨_, exec_eq_after (.jnz A) s, s.pcAfter_jnz_taken A, s.pcAfter_jnz_not_taken A, rfl, rfl, rfl, fun _ => rfl,
    step_of_ext_opcode decodeWindow_jnz⟩

/-- Settles O28: the fields of the state jnn leaves, `pc` by its two cases on the negative encoding. -/
theorem jnnResult : Obligations.JnnResult := fun A s =>
  ⟨_, exec_eq_after (.jnn A) s, s.pcAfter_jnn_taken A, s.pcAfter_jnn_not_taken A, rfl, rfl, rfl, fun _ => rfl,
    step_of_ext_opcode decodeWindow_jnn⟩

end Sys2Proof.Machine

/-! PROOFS. The flags: UpdatePSW's three encodings (R96), and the order of the two stores of add and sub
(R101, U10). -/

namespace Sys2Proof.Machine

/-- R96's encoding with its zero test on the number. -/
theorem pswOf_eq_ite (r : Byte) :
    pswOf r = if r.toNat > 128 then 0x40 else if r.toNat = 0 then 0x80 else 0x00 := by
  have hzero : r.toNat = 0 ↔ r = 0 := BitVec.toNat_inj (y := 0)
  simp only [pswOf, hzero]
  rfl

/-- The result's range is told by its encoding. -/
theorem pswOf_eq_iff (r : Byte) :
    (pswOf r = 0x40 ↔ 129 ≤ r.toNat) ∧ (pswOf r = 0x80 ↔ r.toNat = 0)
      ∧ (pswOf r = 0x00 ↔ 1 ≤ r.toNat ∧ r.toNat ≤ 128) := by
  rw [pswOf_eq_ite]
  by_cases hneg : r.toNat > 128
  · rw [if_pos hneg]
    exact ⟨iff_of_true rfl hneg, iff_of_false (by decide) (by omega), iff_of_false (by decide) (by omega)⟩
  · rw [if_neg hneg]
    by_cases hzero : r.toNat = 0
    · rw [if_pos hzero]
      exact ⟨iff_of_false (by decide) hneg, iff_of_true rfl hzero, iff_of_false (by decide) (by omega)⟩
    · rw [if_neg hzero]
      exact ⟨iff_of_false (by decide) hneg, iff_of_false (by decide) hzero, iff_of_true rfl (by omega)⟩

/-- Settles O33: what an instruction does not store it keeps, and the byte UpdatePSW stores is `pswOf`'s. -/
theorem updatePswWrites : Obligations.UpdatePswWrites := by
  refine ⟨fun i s t hexec _ _ hstored => ?_, fun m r => ?_⟩
  · rw [eq_after_of_exec hexec, State.read_after_of_not_stored hstored]
  · obtain ⟨hneg, hzero, hnone⟩ := pswOf_eq_iff r
    have hcell : (m.updatePsw r).read 0xFFFB = pswOf r := Memory.read_write_same _ _ _
    rw [hcell]
    exact ⟨hneg.symm, hzero.symm, hnone.symm, fun b hb => Memory.read_write_other m _ hb⟩

/-- Stores to two different cells commute, so both orders read alike there. -/
theorem Memory.storeResult_order {m : Memory} {a : Addr} (r : Byte) (hwf : m.wf = true)
    (ha : a ≠ Config.pswAddr) : m.storeResult true a r = m.storeResult false a r := by
  refine canonicalMemoryIsDeterminedByReads _ _ (Memory.wf_storeResult _ _ _ hwf)
    (Memory.wf_storeResult _ _ _ hwf) fun b => ?_
  rw [Memory.read_storeResult_last, Memory.read_storeResult_first]
  by_cases hb : b = a
  · rw [if_pos hb, if_pos hb, if_neg (hb ▸ ha)]
  · rw [if_neg hb, if_neg hb]

/-- Settles O34: at one cell the later of the two stores is the one that stands. -/
theorem storeOrderMattersOnlyAtThePswCell : Obligations.StoreOrderMattersOnlyAtThePswCell := by
  refine fun m a r hwf => ⟨Memory.storeResult_order r hwf, ?_⟩
  rintro rfl
  exact ⟨Memory.read_write_same _ _ _, Memory.read_write_same _ _ _⟩

end Sys2Proof.Machine

/-! PROOFS. Arithmetic and logic: what add, sub and nor leave (R97 to R99), sub as a comparison (R98), and
the two readings of the operands (R100). -/

namespace Sys2Proof.Machine

section StoreResult
variable (m : Memory) (a : Addr) (r : Byte)

/-- The PSW is stored last, so its cell holds the encoding wherever the result lands (R101, D5). -/
theorem Memory.read_storeResult_psw : (m.storeResult Config.pswStoreLast a r).read Config.pswAddr = pswOf r :=
  (Memory.read_storeResult_last m a Config.pswAddr r).trans (if_pos rfl)

/-- Outside the PSW cell only the result is stored. -/
theorem Memory.read_storeResult_of_ne_psw {b : Addr} (hb : b ≠ Config.pswAddr) :
    (m.storeResult Config.pswStoreLast a r).read b = if b = a then r else m.read b :=
  (Memory.read_storeResult_last m a b r).trans (if_neg hb)

end StoreResult

section Results
variable (s : State)

theorem State.read_after_sub_psw : (s.after .sub).read 0xFFFB = pswOf (s.read (s.sp + 1) - s.read (s.sp + 2)) :=
  Memory.read_storeResult_psw _ _ _

variable {s}

theorem State.second_ne_psw (hsp : s.sp ≠ 0xFFF9) : s.sp + 2 ≠ Config.pswAddr :=
  fun h => hsp (sp_of_second_at_psw h.symm)

theorem State.read_after_add_second (hsp : s.sp ≠ 0xFFF9) :
    (s.after .add).read (s.sp + 2) = s.read (s.sp + 2) + s.read (s.sp + 1) :=
  (Memory.read_storeResult_of_ne_psw _ _ _ (State.second_ne_psw hsp)).trans (if_pos rfl)

theorem State.read_after_sub_second (hsp : s.sp ≠ 0xFFF9) :
    (s.after .sub).read (s.sp + 2) = s.read (s.sp + 1) - s.read (s.sp + 2) :=
  (Memory.read_storeResult_of_ne_psw _ _ _ (State.second_ne_psw hsp)).trans (if_pos rfl)

end Results

/-- Settles O29: the fields of the state add leaves; its PSW is the encoding even with `sp` = 0xFFF9. -/
theorem addResult : Obligations.AddResult := by
  rintro s r rfl
  exact ⟨_, exec_eq_after .add s, rfl, rfl, rfl, rfl, fun _ ha => Memory.read_storeResult_of_ne_psw _ _ _ ha,
    fun _ => (Memory.read_storeResult_psw _ _ _).trans (pswOf_eq_ite _), fun hrun hop => step_of_opcode hrun hop⟩

/-- Settles O30: the fields of the state sub leaves, which are add's but for the result. -/
theorem subResult : Obligations.SubResult := by
  rintro s r rfl
  exact ⟨_, exec_eq_after .sub s, rfl, rfl, rfl, rfl, fun _ ha => Memory.read_storeResult_of_ne_psw _ _ _ ha,
    fun _ => s.read_after_sub_psw.trans (pswOf_eq_ite _), fun hrun hop => step_of_opcode hrun hop⟩

/-- Settles O31: the fields of the state nor leaves, one byte stored. -/
theorem norResult : Obligations.NorResult := fun s =>
  ⟨_, exec_eq_after .nor s, rfl, rfl, rfl, rfl, fun a => Memory.read_write s.mem (s.sp + 2) a _,
    fun hrun hop => step_of_opcode hrun hop⟩

/-- A difference of operands up to 127 wraps to 129 or more exactly when it is below zero (R98). -/
theorem toNat_sub_of_small {x y : Byte} (hx : x.toNat ≤ 127) (hy : y.toNat ≤ 127) :
    (129 ≤ (x - y).toNat ↔ x.toNat < y.toNat) ∧ ((x - y).toNat = 0 ↔ x = y)
      ∧ (1 ≤ (x - y).toNat ∧ (x - y).toNat ≤ 128 ↔ y.toNat < x.toNat) := by
  rw [← BitVec.toNat_inj, BitVec.toNat_sub]
  omega

/-- Settles O36: the PSW tells the range of the difference, and that tells how the operands compare. -/
theorem subComparesSmallOperands : Obligations.SubComparesSmallOperands := by
  intro s t hx hy hexec
  obtain rfl := eq_after_of_exec hexec
  rw [s.read_after_sub_psw]
  obtain ⟨hneg, hzero, hnone⟩ := pswOf_eq_iff (s.read (s.sp + 1) - s.read (s.sp + 2))
  obtain ⟨hlt, heq, hgt⟩ := toNat_sub_of_small hx hy
  exact ⟨hneg.trans hlt, hzero.trans heq, hnone.trans hgt⟩

/-- The difference as a number, wrapped modulo 256 (R5). -/
theorem natCast_toNat_sub (x y : Byte) : ((x - y).toNat : Int) = ((x.toNat : Int) - (y.toNat : Int)) % 256 := by
  rw [BitVec.toNat_sub]
  omega

/-- Settles O37: the stored byte is the bit vectors' sum or difference, whatever the operands are read as. -/
theorem signedAndUnsignedReadingsAgree : Obligations.SignedAndUnsignedReadingsAgree := by
  rintro s t x y rfl rfl hsp
  constructor
  · intro hexec
    rw [eq_after_of_exec hexec, State.read_after_add_second hsp]
    exact ⟨BitVec.toNat_add _ _, BitVec.toInt_add _ _⟩
  · intro hexec
    rw [eq_after_of_exec hexec, State.read_after_sub_second hsp]
    exact ⟨natCast_toNat_sub _ _, BitVec.toInt_sub⟩

end Sys2Proof.Machine

/-! PROOFS. The one exception and the latches (R16, R110, R111, R114), and what a stopped core answers to the
host (R116, R117). -/

namespace Sys2Proof.Machine

/-- Settles O9: `exec` and `step` are total, and of the instructions only the invalid one writes `fault`. -/
theorem stepAlwaysAnswersNext : Obligations.StepAlwaysAnswersNext :=
  ⟨fun i s => ⟨_, exec_eq_after i s, s.faultAfter_of_defined⟩, fun s => ⟨_, step_eq s⟩⟩

/-- The fault latch over the opcode map of R56: only an invalid opcode sets it (R57, R114). -/
theorem State.faultAfter_decodeWindow (s : State) (op b1 b2 : Byte) :
    s.faultAfter (decodeWindow op b1 b2) = if 11 ≤ op.toNat then true else s.fault := by
  rcases opcode_cases op with
    (rfl | rfl | rfl | rfl | rfl | rfl | rfl | rfl | rfl | rfl | rfl) | hinvalid
  case inr => rw [decodeWindow_invalid hinvalid, if_pos hinvalid]; rfl
  all_goals rfl

/-- The halt latch over the opcode map of R56: only `halt` sets it (R71, R114). -/
theorem State.haltAfter_decodeWindow (s : State) (op b1 b2 : Byte) :
    s.haltAfter (decodeWindow op b1 b2) = if op = 0x01 then true else s.halt := by
  rcases opcode_cases op with
    (rfl | rfl | rfl | rfl | rfl | rfl | rfl | rfl | rfl | rfl | rfl) | hinvalid
  case inr =>
    rw [decodeWindow_invalid hinvalid, if_neg (ne_of_invalid_opcode hinvalid 0x01 (by decide))]
    rfl
  all_goals rfl

/-- Settles O15: both latches start clear, and the fetched instruction is the opcode map's. -/
theorem opcodeDecidesTheEvent : Obligations.OpcodeDecidesTheEvent := by
  intro s t hrun hstep
  obtain rfl := eq_after_of_step hrun hstep
  refine ⟨?halt, ?fault, hrun.not_both_latches_after _⟩
  case halt => simp [s.fetchInstr_eq, s.haltAfter_decodeWindow, hrun.2]
  case fault => simp [s.fetchInstr_eq, s.faultAfter_decodeWindow, hrun.1]

/-- A stopped core ignores Step and Run (R116). -/
theorem HostMove.eq_of_stopped {op : HostOp} {s t : State} (hmove : HostMove op s t) (hstop : s.stopped = true)
    (hop : op = .step ∨ op = .run) : t = s := by
  rcases hop with rfl | rfl
  · exact Host.Outcome.next.inj (hmove.symm.trans (step_of_stopped hstop))
  · obtain ⟨fuel, hrun⟩ := hmove
    exact (eq_of_runFor_of_stopped hstop hrun).symm

/-- Settles O51: Step and Run do nothing, and the other operations are O52's; Reset is O50's. -/
theorem onlyResetRestarts : Obligations.OnlyResetRestarts := by
  intro op s t hstop hmove
  refine ⟨hmove.eq_of_stopped hstop, fun hreset hconstruct => ?status, ?reset⟩
  case status =>
    by_cases hop : op = .step ∨ op = .run
    · rw [hmove.eq_of_stopped hstop hop]
    · obtain ⟨hstep, hrun⟩ := not_or.1 hop
      exact (hostWritesOnlyPortsAndImage op s t hmove hconstruct hstep hrun).1 hreset
  case reset =>
    rintro rfl
    obtain rfl := hmove
    exact ⟨⟨s.hostReset_fault, s.hostReset_halt⟩, s.hostReset_pc, s.hostReset_sp, s.hostReset_read⟩

end Sys2Proof.Machine

/-! PROOFS. LoadImage puts the image's bytes at consecutive addresses from 0x0000 (R136, U8). -/

namespace Sys2Proof.Machine

/-- Consecutive stores that do not run round memory each keep their byte: the later ones go to other addresses. -/
theorem Memory.read_writeBytes_getElem {m : Memory} {a : Addr} {bs : List Byte} {k : Nat} (hk : k < bs.length)
    (hsize : bs.length ≤ 65536) : (m.writeBytes a bs).read (a + BitVec.ofNat 16 k) = bs[k] := by
  induction bs generalizing m a k with
  | nil => exact absurd hk (Nat.not_lt_zero k)
  | cons v rest ih =>
    rw [List.length_cons] at hsize
    cases k with
    | zero =>
      have hlater : ∀ j < rest.length, a + BitVec.ofNat 16 0 ≠ a + 1 + BitVec.ofNat 16 j := by
        intro j hj heq
        rw [← add_ofNat_succ, BitVec.add_right_inj] at heq
        have hmod : 0 = (j + 1) % 65536 := congrArg BitVec.toNat heq
        omega
      rw [Memory.writeBytes, Memory.read_writeBytes_other hlater, Memory.read_write, if_pos (BitVec.add_zero a)]
      rfl
    | succ k =>
      rw [Memory.writeBytes, add_ofNat_succ, ih (Nat.lt_of_succ_lt_succ hk) (Nat.le_of_succ_le hsize)]
      rfl

/-- LoadImage puts byte `i` of the image at address `i` (R136). -/
theorem Memory.read_writeBytes_image {m : Memory} {a : Addr} {image : List Byte} (ha : a.toNat < image.length)
    (hsize : image.length ≤ 65536) : (m.writeBytes 0x0000 image).read a = image[a.toNat] := by
  have haddr : 0x0000 + BitVec.ofNat 16 a.toNat = a := by simp
  simpa only [haddr] using Memory.read_writeBytes_getElem (m := m) (a := 0x0000) ha hsize

/-- Settles O53: the image fits memory, so no byte of it is stored over; past it nothing is stored. -/
theorem loadImageEffect : Obligations.LoadImageEffect := fun s image =>
  ⟨fun hsize => ⟨s.setMem (s.mem.writeBytes 0x0000 image), if_pos hsize, rfl,
      fun _ ha => Memory.read_writeBytes_image ha hsize, fun _ ha => Memory.read_writeBytes_past_image ha⟩,
    fun hlong => if_neg (Nat.not_le_of_lt hlong)⟩

end Sys2Proof.Machine

/-! PROOFS. How a Run ends: its last step runs a halt or an invalid opcode (R114, R138). -/

namespace Sys2Proof.Machine

/-- Taking `n` Steps and then one more. -/
theorem last_step_of_steps_succ {n : Nat} {s t : State} (h : steps (n + 1) s = .next t) :
    ∃ u, steps n s = .next u ∧ step u = .next t := by
  induction n generalizing s with
  | zero =>
    rw [steps_succ 0 (step_eq s)] at h
    exact ⟨s, steps_zero s, (step_eq s).trans h⟩
  | succ n ih =>
    obtain ⟨u, hsteps, hstep⟩ := ih ((steps_succ (n + 1) (step_eq s)).symm.trans h)
    exact ⟨u, (steps_succ n (step_eq s)).trans hsteps, hstep⟩

/-- Only a halt or an invalid opcode takes a running core to a stopped one (R114). -/
theorem stopping_step_cases {u t : State} (hrun : u.Running) (hstep : step u = .next t)
    (hstop : t.stopped = true) :
    u.read u.pc = 0x01 ∧ t = u.after .halt
      ∨ 11 ≤ (u.read u.pc).toNat ∧ t = u.after (.invalid (u.read u.pc)) := by
  obtain ⟨hhalt, hfault, -⟩ := opcodeDecidesTheEvent u t hrun hstep
  rcases t.stopped_iff.1 hstop with hset | hset
  · have hop := hfault.1 hset
    exact .inr ⟨hop, Host.Outcome.next.inj (hstep.symm.trans (step_of_invalid_opcode hrun hop))⟩
  · have hop := hhalt.1 hset
    exact .inl ⟨hop, Host.Outcome.next.inj (hstep.symm.trans (step_of_opcode hrun hop))⟩

/-- A Run of a running core ends with a step from a Running state it has reached (R69). -/
theorem RunEnds.last_step {s t : State} (hends : RunEnds s t) (hrun : s.Running) :
    ∃ u : State, u.Running ∧ (∃ n, steps n s = .next u) ∧ step u = .next t ∧ t.stopped = true := by
  obtain ⟨n, hsteps, hstop, hsafe⟩ := (runEnds_iff s t).1 hends
  cases n with
  | zero =>
    obtain rfl := Host.Outcome.next.inj hsteps
    exact absurd hstop (Bool.eq_false_iff.1 (s.not_stopped_iff.2 hrun))
  | succ n =>
    obtain ⟨u, hbefore, hstep⟩ := last_step_of_steps_succ hsteps
    exact ⟨u, hsafe n n.lt_succ_self u hbefore, ⟨n, hbefore⟩, hstep, hstop⟩

/-- Settles O56: the fields of the state a halt or an invalid opcode leaves, from the Running state before it. -/
theorem endOfRun : Obligations.EndOfRun := by
  intro s t hrun hends
  obtain ⟨u, hrunning, hreached, hstep, hstop⟩ := hends.last_step hrun
  rcases stopping_step_cases hrunning hstep hstop with ⟨hop, rfl⟩ | ⟨hop, rfl⟩
  · exact ⟨u, hrunning, hreached, rfl, rfl, fun _ => rfl, .inl ⟨hop, rfl, hrunning.1⟩⟩
  · exact ⟨u, hrunning, hreached, rfl, rfl, fun _ => rfl, .inr ⟨hop, rfl, hrunning.2⟩⟩

end Sys2Proof.Machine

/-! PROOFS. add and sub with the PSW cell as second: both stores hit it, and the flag store is the later one
(R101, D5). -/

namespace Sys2Proof.Machine

/-- A result aimed at the PSW cell is lost under its own encoding; nothing else is stored. -/
theorem Memory.read_storeResult_at_psw (m : Memory) (r : Byte) (b : Addr) :
    (m.storeResult Config.pswStoreLast Config.pswAddr r).read b
      = if b = Config.pswAddr then pswOf r else m.read b := by
  by_cases hb : b = Config.pswAddr
  · rw [if_pos hb, hb, Memory.read_storeResult_psw]
  · rw [Memory.read_storeResult_of_ne_psw m Config.pswAddr r hb, if_neg hb, if_neg hb]

/-- With `sp` = 0xFFF9 add and sub store over 0xFFFB, their operands read from 0xFFFB and 0xFFFA (R97, R98). -/
theorem Memory.after_alu_at_psw {m : Memory} {i : Instr} {r : Byte}
    (hi : i = .add ∧ r = m.read 0xFFFB + m.read 0xFFFA ∨ i = .sub ∧ r = m.read 0xFFFA - m.read 0xFFFB) :
    m.after 0xFFF9 i = m.storeResult Config.pswStoreLast Config.pswAddr r ∧ spAfter 0xFFF9 i = 0xFFFA := by
  rcases hi with ⟨rfl, rfl⟩ | ⟨rfl, rfl⟩
  · exact ⟨rfl, rfl⟩
  · exact ⟨rfl, rfl⟩

/-- Settles O32: the result is stored over the PSW cell, then its encoding is (D5). -/
theorem aluResultAtThePswCell : Obligations.AluResultAtThePswCell := by
  intro s t i r hsp hi hexec
  obtain rfl := eq_after_of_exec hexec
  obtain ⟨hmem, hsp'⟩ := Memory.after_alu_at_psw (m := s.mem) hi
  refine ⟨fun a => ?_, by rw [State.after_sp, hsp, hsp']⟩
  rw [State.after_read, hsp, hmem, Memory.read_storeResult_at_psw, pswOf_eq_ite]
  rfl

end Sys2Proof.Machine
